-- ==== Sys2Proof/Word.lean ====
section
/-! DEFINITION. The three bit-vector widths OTPG's registers and byte strings use (spec/00_scope.md R8, R11;
spec/10_state.md R21). Everything wider or unbounded is a `Nat` or an `Int`, as rule R11 says of all pseudocode. -/

namespace Sys2Proof

/-- One byte of a key, message, digest, candidate or code (rule R11). -/
abbrev Byte := BitVec 8

/-- One 32-bit bus register value or command word (rules R21, R80). -/
abbrev Word := BitVec 32

/-- One 64-bit operand: COUNTER, TIMESTAMP, PERIOD, BELOW, ABOVE, START, COUNT (rule R8, `OPND_W`). -/
abbrev DWord := BitVec 64

end Sys2Proof
end

