-- ==== Sys2Proof/Config.lean ====
section
/-! DEFINITION. The implementation parameters of spec/00_scope.md R8 and the parameters
spec/92_eei_decisions.md leaves open: KH, OTPG_BASE, OTPG_IRQ_LINE. The fourth open parameter, OTPG_RESET, is an
input and stands in the state as a turn (`Machine.Turn.reset`). -/

namespace Sys2Proof

/-- `ALG_SET` (rules R8, R83): the closed enumeration of hash algorithms. -/
inductive HashAlg where
  | sha1
  | sha256
  | sha512
  deriving DecidableEq, Repr

/-- `DL(alg)` (rule R8): the digest length in bytes. PRESUMED: the spec marks its table as general knowledge (log 15). -/
def digestLen : HashAlg → Nat
  | .sha1 => 20
  | .sha256 => 32
  | .sha512 => 64

/-- The type of a keyed hash (rule R9): total in the algorithm, the key and the message, its output of exactly
`DL(alg)` bytes. Determinism is being a function; the length is in the type. -/
abbrev KeyedHash := (alg : HashAlg) → (key : List Byte) → (msg : List Byte) → Vector Byte (digestLen alg)

/-- `KH` (rule R9; spec/93_implementation_defined.md U1): the machine's keyed hash. It has no body, so nothing
beyond its type can be proved of it. DESIGN CHOICE, log 1. -/
opaque Config.kh : KeyedHash

/-- `KEY_MAX` (rule R8): the size of the key buffer in bytes. -/
def Config.keyMax : Nat := 128

/-- `APERTURE` (rule R8): the size of the register aperture in bytes. -/
def Config.aperture : Nat := 4096

/-- `ID_VALUE` (rules R3, R8, R22): the ASCII bytes "OTPG". -/
def Config.idValue : Word := 0x4F545047#32

/-- The number of the 4096-byte page the platform places OTPG on. DESIGN CHOICE, log 2. -/
opaque Config.otpgBasePage : Nat

/-- `OTPG_BASE` (rules R8, R61): the aperture's base address, aligned to 4096 bytes by its form. -/
def Config.otpgBase : Nat := Config.otpgBasePage * Config.aperture

/-- `OTPG_IRQ_LINE` (rule R169): the platform line that carries IRQ. DESIGN CHOICE, log 2. -/
opaque Config.otpgIrqLine : Nat

end Sys2Proof
end

