-- ==== Sys2Proof/Syntax.lean ====
section
/-! DEFINITION. The command words of OTPG as syntax (spec/30_encoding.md R80 to R88): one constructor per row of
spec/opcode_table.json, each carrying the one format's fields of rule R81. -/

namespace Sys2Proof

/-- The ALG field (rule R83): the three algorithms and the one reserved value. -/
inductive AlgSel where
  | sha1
  | sha256
  | sha512
  | reserved
  deriving DecidableEq, Repr

/-- The fields of a command word beside OPC and RSV (rule R81). There is one format, so every operation carries all
four. Rule R88 says which of them an operation ignores. The defaults are those of the assembler (rule R92). -/
structure CmdFields where
  /-- ALG, bits 5:4; used by every operation. -/
  alg : AlgSel := .sha1
  /-- VT, bit 6; used by CHK, HCHK, TCHK. -/
  vt : Bool := false
  /-- AINC, bit 7; used by GEN. -/
  ainc : Bool := false
  /-- LEN, bits 11:8; used by GEN, TGEN. -/
  len : BitVec 4 := 0
  deriving DecidableEq, Repr

/-- OTPG's commands (rule R82), in the order of the opcode map. -/
inductive Instr where
  /-- GEN: the code for COUNTER (rule R110). -/
  | gen (f : CmdFields)
  /-- CHK: the candidate against START .. START+COUNT-1 (rule R139). -/
  | chk (f : CmdFields)
  /-- HCHK: the candidate against the HOTP window around COUNTER (rule R141). -/
  | hchk (f : CmdFields)
  /-- TGEN: the TOTP code for TIMESTAMP (rule R112). -/
  | tgen (f : CmdFields)
  /-- TCHK: the candidate against the TOTP window around TIMESTAMP (rule R144). -/
  | tchk (f : CmdFields)
  deriving DecidableEq, Repr

/-- The operation alone, as the hidden register E_OP holds it (rule R46). -/
inductive Op where
  | gen
  | tgen
  | chk
  | hchk
  | tchk
  deriving DecidableEq, Repr

def Instr.op : Instr → Op
  | .gen _ => .gen
  | .chk _ => .chk
  | .hchk _ => .hchk
  | .tgen _ => .tgen
  | .tchk _ => .tchk

def Instr.fields : Instr → CmdFields
  | .gen f | .chk f | .hchk f | .tgen f | .tchk f => f

/-- GEN and TGEN, whose code length is the LEN field (rule R86). -/
def Op.isGenerate : Op → Bool
  | .gen | .tgen => true
  | .chk | .hchk | .tchk => false

/-- TGEN and TCHK, which read PERIOD (rule R91). -/
def Op.isTotp : Op → Bool
  | .tgen | .tchk => true
  | .gen | .chk | .hchk => false

end Sys2Proof
end

