-- ==== Sys2Proof/WellFormed.lean ====
section
/-! DEFINITION. Which decoded command words are legal encodings (spec/30_encoding.md R89; the `legal` column of
spec/opcode_table.json). A word that is not is still an instruction: its issue reports the error rule R161 names. -/

namespace Sys2Proof

/-- ALG is not the reserved value (rule R83). -/
def CmdFields.algLegal (f : CmdFields) : Bool := decide (f.alg ≠ .reserved)

/-- LEN is a key of the digit table, 0..8 (rule R86). -/
def CmdFields.lenLegal (f : CmdFields) : Bool := decide (f.len.toNat ≤ 8)

/-- Rule R89: the encodings of rule R82's operations that no field makes illegal. LEN counts for GEN and TGEN only. -/
def Instr.wellFormed (i : Instr) : Bool :=
  i.fields.algLegal && (!i.op.isGenerate || i.fields.lenLegal)

end Sys2Proof
end

