-- ==== Sys2Proof/Decode.lean ====
section
/-! DEFINITION. The decoder of the 32-bit command word, total and rejecting by name, and after it the encoder, both from
the field table of spec/30_encoding.md R81 and the opcode map of R82. -/

namespace Sys2Proof

/-- Why a word is no command (rule R89). Both reasons are the error INVALID_COMMAND. -/
inductive DecodeReject where
  /-- RSV, bits 31:12, is not 0 (rule R87). -/
  | reservedBits
  /-- OPC is 0x0 or 0x6..0xF (rule R82). -/
  | reservedOpcode
  deriving DecidableEq, Repr

/-- What the decoder answers. -/
inductive Decoded where
  | instr (i : Instr)
  | rejected (r : DecodeReject)
  deriving DecidableEq, Repr

/-- The ALG encoding (rule R83). -/
def algSelOfBits (b : BitVec 2) : AlgSel :=
  match b.toNat with
  | 0 => .sha1
  | 1 => .sha256
  | 2 => .sha512
  | _ => .reserved

/-- The fields of rule R81. -/
def fieldsOfWord (w : Word) : CmdFields where
  alg := algSelOfBits (w.extractLsb' 4 2)
  vt := w.getLsbD 6
  ainc := w.getLsbD 7
  len := w.extractLsb' 8 4

/-- The decoder (rules R81, R82, R87, R91). RSV is looked at first, "whatever its OPC". -/
def decode (w : Word) : Decoded :=
  if w.extractLsb' 12 20 ≠ 0 then .rejected .reservedBits
  else
    match (w.extractLsb' 0 4).toNat with
    | 0x1 => .instr (.gen (fieldsOfWord w))
    | 0x2 => .instr (.chk (fieldsOfWord w))
    | 0x3 => .instr (.hchk (fieldsOfWord w))
    | 0x4 => .instr (.tgen (fieldsOfWord w))
    | 0x5 => .instr (.tchk (fieldsOfWord w))
    | _ => .rejected .reservedOpcode

/-- The ALG encoding, the other way. -/
def AlgSel.bits : AlgSel → BitVec 2
  | .sha1 => 0
  | .sha256 => 1
  | .sha512 => 2
  | .reserved => 3

/-- OPC (rule R82). -/
def Op.opc : Op → BitVec 4
  | .gen => 0x1
  | .chk => 0x2
  | .hchk => 0x3
  | .tgen => 0x4
  | .tchk => 0x5

/-- The encoder (rule R92: `OPC | ALG<<4 | VT<<6 | AINC<<7 | L<<8`). -/
def encode (i : Instr) : Word :=
  i.op.opc.setWidth 32
    ||| (i.fields.alg.bits.setWidth 32 <<< 4)
    ||| ((BitVec.ofBool i.fields.vt).setWidth 32 <<< 6)
    ||| ((BitVec.ofBool i.fields.ainc).setWidth 32 <<< 7)
    ||| (i.fields.len.setWidth 32 <<< 8)

/-- The instruction in a word numbered as spec/opcode_table.json numbers it. A command is one 32-bit word presented
whole on the bus (rules R62, R80), so the word is the number. -/
def decodeTableWord (nbits w : Nat) : Option Instr :=
  if w % 2 ^ nbits < 2 ^ 32 then
    match decode (BitVec.ofNat 32 (w % 2 ^ nbits)) with
    | .instr i => some i
    | .rejected _ => none
  else none

end Sys2Proof
end

