-- ==== Sys2Proof/Machine/State.lean ====
section
/-! DEFINITION. The state of OTPG as plain data: every element of spec/70_reset_and_hazards.md R190 that is stored, and
beside it the two inputs the outside world gives the machine (host accesses, whose turn it is) and the bus responses. -/

namespace Sys2Proof.Machine

/-- STATUS.ERRCODE (rule R161). Codes 6 to 15 are "reserved: never reported", so they have no constructor (log 14). -/
inductive ErrCode where
  | none
  | invalidLength
  | invalidAlgorithm
  | invalidCommand
  | invalidPeriod
  | invalidKeylen
  deriving DecidableEq, Repr

/-- The fields of STATUS (rule R26). Its other bits are RAZ/WI and store nothing. -/
structure Status where
  busy : Bool
  done : Bool
  err : Bool
  matched : Bool
  wign : Bool
  errcode : ErrCode
  deriving DecidableEq, Repr

/-- The hidden sequencer state (rule R46), under the rule's names. -/
structure Engine where
  /-- E_OP -/
  op : Op
  /-- E_ALG -/
  alg : HashAlg
  /-- E_VT -/
  vt : Bool
  /-- E_AINC -/
  ainc : Bool
  /-- E_L, 0..8 -/
  len : Fin 9
  /-- E_CTR -/
  ctr : DWord
  /-- SCAN_BASE -/
  scanBase : DWord
  /-- SCAN_N, a natural below 2^65 -/
  scanN : Nat
  /-- SCAN_I, a natural at most SCAN_N -/
  scanI : Nat
  /-- ACC -/
  acc : Bool
  deriving DecidableEq, Repr

/-- Everything OTPG stores (rules R20, R21, R46, R190). ID is a constant, CTRL.SRST reads 0 and IRQ is a function of
these fields (rules R22, R23, R52), so none of the three is a field. -/
structure Device where
  /-- CTRL.IE (rule R23) -/
  ie : Bool
  status : Status
  /-- CMD (rule R32) -/
  cmd : Word
  /-- KEYLEN bits 7:0 (rule R34) -/
  keyLen : BitVec 8
  counter : DWord
  timestamp : DWord
  period : DWord
  below : DWord
  above : DWord
  start : DWord
  count : DWord
  /-- CAND_LEN bits 3:0 (rule R40) -/
  candLen : BitVec 4
  /-- CAND[0..7] (rule R41) -/
  cand : Vector Byte 8
  /-- KEY[0..127] (rule R33) -/
  key : Vector Byte 128
  /-- TRUNC bits 30:0 (rule R42) -/
  trunc : BitVec 31
  /-- CODE_VAL bits 26:0 (rule R43) -/
  codeVal : BitVec 27
  /-- CODE[0..7] (rule R44) -/
  code : Vector Byte 8
  /-- DIGEST[0..63] (rule R45) -/
  digest : Vector Byte 64
  engine : Engine
  deriving DecidableEq, Repr

/-- One action of the host's port (rules R14, R62, R92). A width other than 4 is expressible because rule R63 says what
it does (log 12). -/
inductive HostAction where
  /-- `MemRead(off, bytes)` -/
  | rd (off bytes : Nat)
  /-- `MemWrite(off, bytes, v)` -/
  | wr (off bytes : Nat) (v : Word)
  /-- POLL (rule R93): `RD STATUS` repeated until bit 0 reads 0. -/
  | poll
  deriving DecidableEq, Repr

/-- The bus response to one access (rules R62, R63). -/
inductive BusResponse where
  /-- a legal read's data -/
  | data (v : Word)
  /-- a legal write -/
  | ack
  /-- a rejected access, which returns no data -/
  | busError
  deriving DecidableEq, Repr

/-- Whose step comes next (rules R20, R70, R191). -/
inductive Turn where
  /-- the host's next action -/
  | host
  /-- one engine step, if the engine has one -/
  | engine
  /-- the platform asserts the reset input, parameter OTPG_RESET -/
  | reset
  deriving DecidableEq, Repr

/-- The machine: OTPG, and the MODEL's own three fields. `pending` and `turns` are inputs: any lists may stand there, so a
statement about every state is a statement about every host program under every interleaving of rule R70. -/
structure State where
  dev : Device
  /-- host actions not yet performed, in host order -/
  pending : List HostAction
  /-- whose turn comes next, in order; log 4 says what an empty list means -/
  turns : List Turn
  /-- the responses so far, the latest first (log 5) -/
  responses : List BusResponse
  deriving DecidableEq, Repr

/-- OTPG raises no trap and "every operation is a pure computation with no transient-failure modes" (rules R160, R178):
the machine never faults, so there is no reason to name. A rejected command and a bus error are reported in STATUS
and on the bus, and the machine goes on (rules R63, R163). -/
inductive Fault where
  deriving DecidableEq, Repr

/-- Why a step has no meaning. No meaning of this model raises it: every command of the opcode table is modelled. -/
inductive Refusal where
  /-- An arm of `exec` that has no meaning yet. Safe (the run stops). No arm raises it. -/
  | notModelled (mnemonic : String)
  deriving DecidableEq, Repr

/-- STATUS at reset (rule R190). -/
def Status.reset : Status where
  busy := false
  done := false
  err := false
  matched := false
  wign := false
  errcode := .none

/-- The hidden state at reset (rule R190). -/
def Engine.reset : Engine where
  op := .gen
  alg := .sha1
  vt := false
  ainc := false
  len := 0
  ctr := 0
  scanBase := 0
  scanN := 0
  scanI := 0
  acc := false

/-- The reset value of every stored element (rule R190): zero, but for PERIOD = 30. -/
def Device.reset : Device where
  ie := false
  status := Status.reset
  cmd := 0
  keyLen := 0
  counter := 0
  timestamp := 0
  period := 30
  below := 0
  above := 0
  start := 0
  count := 0
  candLen := 0
  cand := Vector.replicate 8 0
  key := Vector.replicate 128 0
  trunc := 0
  codeVal := 0
  code := Vector.replicate 8 0
  digest := Vector.replicate 64 0
  engine := Engine.reset

/-- The machine after reset: OTPG in its reset state, waiting for host accesses (rule R191). The model's own fields are empty
(log 17). -/
def State.reset : State where
  dev := Device.reset
  pending := []
  turns := []
  responses := []

end Sys2Proof.Machine
end

