-- ==== Sys2Proof/Machine/Ops.lean ====
section
/-! DEFINITION. The shared operations: byte strings and wrapping arithmetic in the notation of spec/00_scope.md R11 to
R13, and the named updates of OTPG's state that the issue and the engine steps are made of. -/

namespace Sys2Proof.Machine

/-! ## Notation (rules R11, R13) -/

/-- `wrap64(v)`: `v mod 2^64` (rule R11). -/
def wrap64 (v : Int) : DWord := BitVec.ofInt 64 v

/-- `s[i]` of a byte string (rule R11). Every use is at an index inside the string; past its end it is 0. -/
def byteAt (s : List Byte) (i : Nat) : Byte := s.getD i 0

/-- `BE_N(v)`: the N bytes of `v`, most significant first (rule R11). -/
def beBytes (n v : Nat) : List Byte :=
  (List.range n).map fun i => BitVec.ofNat 8 (v / 256 ^ (n - 1 - i))

/-- `BEval(s)`: the unsigned big-endian value of a byte string (rule R11). -/
def beVal (s : List Byte) : Nat := s.foldl (fun acc b => acc * 256 + b.toNat) 0

/-- `DIGITS_L(v)`: `v` in decimal, left-padded with zeros to L characters (rule R13). -/
def digits (L v : Nat) : List Byte :=
  (List.range L).map fun i => BitVec.ofNat 8 (0x30 + v / 10 ^ (L - 1 - i) % 10)

/-! ## Packing of byte strings in registers (rule R65) -/

/-- A byte string in a buffer of `n` bytes, the rest 0x00 (rules R44, R45, R114). -/
def padTo (n : Nat) (s : List Byte) : Vector Byte n := Vector.ofFn fun i => byteAt s i

/-- Byte `j` of a word, `j` from 0: bits (31 - 8j) down to (24 - 8j). -/
def wordByte (w : Word) (j : Nat) : Byte := w.extractLsb' (24 - 8 * j) 8

/-- Register `k` of a buffer: its bytes 4k .. 4k+3, the lowest index most significant. -/
def packWord {n : Nat} (b : Vector Byte n) (k : Nat) : Word :=
  let s := b.toList
  byteAt s (4 * k) ++ byteAt s (4 * k + 1) ++ byteAt s (4 * k + 2) ++ byteAt s (4 * k + 3)

/-- The buffer after a write of `w` to its register `k`. -/
def storeWord {n : Nat} (b : Vector Byte n) (k : Nat) (w : Word) : Vector Byte n :=
  Vector.ofFn fun i => if i.val / 4 = k then wordByte w (i.val % 4) else b[i]

/-! ## Reading the operands -/

/-- `KEYBYTES`: KEY[0..KEYLEN-1] (rules R12, R33). -/
def Device.keyBytes (d : Device) : List Byte := d.key.toList.take d.keyLen.toNat

/-- CAND[0..7] as a byte string (rule R41). -/
def Device.candBytes (d : Device) : List Byte := d.cand.toList

/-! ## Updates at issue (rule R91) -/

/-- `x[CMD] <- w` (rules R32, R91). -/
def Device.storeCmd (d : Device) (w : Word) : Device :=
  { d with cmd := w }

/-- The second line of rule R91: DONE, ERR, ERRCODE and MATCH cleared. WIGN is "not cleared by command issue". -/
def Device.clearFlags (d : Device) : Device :=
  { d with status :=
    { d.status with done := false, err := false, errcode := .none, matched := false } }

/-- TAKING AN ERROR: `raise Error(e)` during an issue (rule R163). OTPG has no handler, no saved register and no return
(rules R160, R166): the error stands in STATUS until the next issue, a W1C of ERR or a reset. -/
def Device.raiseError (d : Device) (e : ErrCode) : Device :=
  { d with status := { d.status with err := true, errcode := e } }

/-- The latching line of rule R91: E_OP, E_ALG, E_VT, E_AINC, E_L. -/
def Device.latch (d : Device) (op : Op) (alg : HashAlg) (f : CmdFields) (L : Fin 9) : Device :=
  { d with engine :=
    { d.engine with op := op, alg := alg, vt := f.vt, ainc := f.ainc, len := L } }

/-- The last line of rule R91: the engine has work. -/
def Device.setBusy (d : Device) : Device :=
  { d with status := { d.status with busy := true } }

/-- The setup of GEN and TGEN: E_CTR (rules R110, R112). -/
def Device.setCounter (d : Device) (c : DWord) : Device :=
  { d with engine := { d.engine with ctr := c } }

/-- The setup every check shares (rule R138): the result registers, DIGEST, ACC and SCAN_I zeroed. -/
def Device.clearResults (d : Device) : Device :=
  { d with
    trunc := 0
    codeVal := 0
    code := Vector.replicate 8 0
    digest := Vector.replicate 64 0
    engine := { d.engine with acc := false, scanI := 0 } }

/-- SCAN_BASE and SCAN_N of a check (rules R139, R141, R144). -/
def Device.setWindow (d : Device) (base : DWord) (n : Nat) : Device :=
  { d with engine := { d.engine with scanBase := base, scanN := n } }

/-! ## Updates by the engine -/

/-- `write_results(D, T, V, S)` (rule R114). -/
def Device.writeResults (d : Device) (D : List Byte) (T V : Nat) (S : List Byte) : Device :=
  { d with
    trunc := BitVec.ofNat 31 T
    codeVal := BitVec.ofNat 27 V
    code := padTo 8 S
    digest := padTo 64 D }

/-- `x[COUNTER] <- c`, the engine's one write of an operand register (rules R35, R115). -/
def Device.writeCounter (d : Device) (c : DWord) : Device :=
  { d with counter := c }

/-- One evaluated counter: `ACC <- ACC | m; SCAN_I <- SCAN_I + 1` (rule R134). -/
def Device.scanned (d : Device) (m : Bool) : Device :=
  { d with engine :=
    { d.engine with acc := d.engine.acc || m, scanI := d.engine.scanI + 1 } }

/-- `x[STATUS.MATCH] <- m` (rule R135). -/
def Device.setMatch (d : Device) (m : Bool) : Device :=
  { d with status := { d.status with matched := m } }

/-- Completion: `BUSY <- 0; DONE <- 1` (rules R110, R112, R135). -/
def Device.finish (d : Device) : Device :=
  { d with status := { d.status with busy := false, done := true } }

/-! ## Updates of the machine around OTPG -/

def State.withDev (s : State) (d : Device) : State := { s with dev := d }

def State.respond (s : State) (r : BusResponse) : State := { s with responses := r :: s.responses }

end Sys2Proof.Machine
end

