-- ==== Sys2Proof/Machine/Comparator.lean ====
section
/-! DEFINITION. The code comparator (spec/41_check.md R130 to R132): what a match is, and the constant-time and variable-time
forms with the number of byte lanes each examines. -/

namespace Sys2Proof.Machine

/-- A comparison's result and the number of byte lanes it examined (rules R131, R205; the "bytes examined" column of
spec/95_test_vectors.md 2.4). The count is an observation: no register holds it (log 11). -/
structure Comparison where
  equal : Bool
  lanes : Nat
  deriving DecidableEq, Repr

/-- `match(CAND, S, L)`: CAND[i] = S[i] for every i < L (rule R130). -/
def codeMatches (cand S : List Byte) (L : Nat) : Bool :=
  (List.range L).all fun i => byteAt cand i == byteAt S i

/-- One lane of `match_ct`: lanes at and above L contribute 0. -/
def ctLane (cand S : List Byte) (L i : Nat) : Byte :=
  if i < L then byteAt cand i ^^^ byteAt S i else 0

/-- The loop of `match_ct` over a list of lanes: `diff` gathers every difference and every lane is counted. -/
def ctScan (cand S : List Byte) (L : Nat) : List Nat → Byte → Nat → Comparison
  | [], diff, n => ⟨diff == 0, n⟩
  | i :: is, diff, n => ctScan cand S L is (diff ||| ctLane cand S L i) (n + 1)

/-- `match_ct(CAND, S, L)`: all eight lanes, no data-dependent exit (rule R131). -/
def matchCt (cand S : List Byte) (L : Nat) : Comparison := ctScan cand S L (List.range 8) 0 0

/-- The loop of `match_vt`: it ends at the first differing byte. -/
def vtScan (cand S : List Byte) : List Nat → Nat → Comparison
  | [], n => ⟨true, n⟩
  | i :: is, n => if byteAt cand i ≠ byteAt S i then ⟨false, n + 1⟩ else vtScan cand S is (n + 1)

/-- `match_vt(CAND, S, L)` (rule R132). -/
def matchVt (cand S : List Byte) (L : Nat) : Comparison := vtScan cand S (List.range L) 0

end Sys2Proof.Machine
end

