-- ==== Sys2Proof/Machine/Flags.lean ====
section
/-! DEFINITION. STATUS and CTRL as software sees them: the STATUS word, its write-1-to-clear bits, the ignored-write flag and
the interrupt output (spec/10_state.md R23, R26, R31, R52; spec/60_exceptions.md R161, R169, R170). -/

namespace Sys2Proof.Machine

/-- The numbers of rule R161's table. -/
def ErrCode.code : ErrCode → BitVec 4
  | .none => 0
  | .invalidLength => 1
  | .invalidAlgorithm => 2
  | .invalidCommand => 3
  | .invalidPeriod => 4
  | .invalidKeylen => 5

/-- STATUS as it reads (rule R26): ERRCODE in bits 11:8, WIGN, MATCH, ERR, DONE, BUSY in bits 4 to 0, 0 elsewhere. -/
def Status.word (st : Status) : Word :=
  0#20 ++ st.errcode.code ++ 0#3 ++ BitVec.ofBool st.wign ++ BitVec.ofBool st.matched
    ++ BitVec.ofBool st.err ++ BitVec.ofBool st.done ++ BitVec.ofBool st.busy

/-- A write to STATUS (rule R26): DONE, ERR (with it ERRCODE) and WIGN are cleared where bit 1, 2 or 4 of the written
value is 1. Every other bit is ignored. -/
def Status.clear (st : Status) (v : Word) : Status :=
  { st with
    done := st.done && !v.getLsbD 1
    err := st.err && !v.getLsbD 2
    errcode := if v.getLsbD 2 then .none else st.errcode
    wign := st.wign && !v.getLsbD 4 }

/-- STATUS written by the host. -/
def Device.clearStatus (d : Device) (v : Word) : Device :=
  { d with status := d.status.clear v }

/-- An operand write that BUSY = 1 makes OTPG ignore (rules R31, R67): only WIGN is set. -/
def Device.ignoreWrite (d : Device) : Device :=
  { d with status := { d.status with wign := true } }

/-- CTRL as it reads (rule R23): IE in bit 1; SRST reads 0. -/
def Device.ctrlWord (d : Device) : Word := 0#30 ++ BitVec.ofBool d.ie ++ 0#1

/-- A write to CTRL (rules R23, R192): with bit 0 set a soft reset, which discards the write's other bits; else IE. -/
def Device.writeCtrl (d : Device) (v : Word) : Device :=
  if v.getLsbD 0 then Device.reset else { d with ie := v.getLsbD 1 }

/-- IRQ, a level at every instant (rules R52, R169). -/
def Device.irq (d : Device) : Bool := d.ie && (d.status.done || d.status.err)

/-- The level on the platform's line (rule R169, parameter OTPG_IRQ_LINE). -/
def Device.platformIrq (d : Device) : Nat × Bool := (Config.otpgIrqLine, d.irq)

end Sys2Proof.Machine
end

