-- ==== Sys2Proof/Machine/Operands.lean ====
section
/-! DEFINITION. The register map (spec/10_state.md R21): every register by name, its offset, its access type, how it reads
and what a write stores; and the validation of a command against its operands (spec/30_encoding.md R91). -/

namespace Sys2Proof.Machine

/-- The 64-bit operands, each a LO and a HI register (rule R66). -/
inductive Operand64 where
  | counter
  | timestamp
  | period
  | below
  | above
  | start
  | count
  deriving DecidableEq, Repr

/-- The registers of the map (rule R21). -/
inductive Reg where
  | id
  | ctrl
  | status
  | cmd
  | keyLen
  | lo (o : Operand64)
  | hi (o : Operand64)
  | candLen
  | cand (k : Fin 2)
  | trunc
  | codeVal
  | code (k : Fin 2)
  | digest (k : Fin 16)
  | key (k : Fin 32)
  deriving DecidableEq, Repr

/-- The offset of a 64-bit operand's LO register; HI is the next word (rules R21, R66). -/
def Operand64.offset : Operand64 → Nat
  | .counter => 0x018
  | .timestamp => 0x020
  | .period => 0x028
  | .below => 0x030
  | .above => 0x038
  | .start => 0x040
  | .count => 0x048

/-- The offset of a register (rule R21). -/
def Reg.offset : Reg → Nat
  | .id => 0x000
  | .ctrl => 0x004
  | .status => 0x008
  | .cmd => 0x00C
  | .keyLen => 0x010
  | .lo o => o.offset
  | .hi o => o.offset + 4
  | .candLen => 0x050
  | .cand k => 0x054 + 4 * k
  | .trunc => 0x060
  | .codeVal => 0x064
  | .code k => 0x068 + 4 * k
  | .digest k => 0x100 + 4 * k
  | .key k => 0x200 + 4 * k

def Operand64.all : List Operand64 := [.counter, .timestamp, .period, .below, .above, .start, .count]

/-- Every register of the map. -/
def Reg.all : List Reg :=
  [.id, .ctrl, .status, .cmd, .keyLen, .candLen, .trunc, .codeVal]
    ++ Operand64.all.map .lo ++ Operand64.all.map .hi
    ++ (List.finRange 2).map .cand ++ (List.finRange 2).map .code
    ++ (List.finRange 16).map .digest ++ (List.finRange 32).map .key

/-- The register at an offset; none at a reserved one. -/
def regAt (off : Nat) : Option Reg := Reg.all.find? fun r => r.offset == off

/-- The "operand" column of rule R21: writes are ignored while BUSY = 1 (rule R67). -/
def Reg.isOperand : Reg → Bool
  | .cmd | .keyLen | .lo _ | .hi _ | .candLen | .cand _ | .key _ => true
  | .id | .ctrl | .status | .trunc | .codeVal | .code _ | .digest _ => false

/-- The value of a 64-bit operand. -/
def Device.operand (d : Device) : Operand64 → DWord
  | .counter => d.counter
  | .timestamp => d.timestamp
  | .period => d.period
  | .below => d.below
  | .above => d.above
  | .start => d.start
  | .count => d.count

def Device.setOperand (d : Device) (o : Operand64) (v : DWord) : Device :=
  match o with
  | .counter => { d with counter := v }
  | .timestamp => { d with timestamp := v }
  | .period => { d with period := v }
  | .below => { d with below := v }
  | .above => { d with above := v }
  | .start => { d with start := v }
  | .count => { d with count := v }

/-- What a register reads as (rule R21 and the rule of each register). A write-only KEY_k reads 0 (rule R33); reserved bits
read 0 (rule R51). -/
def Device.readReg (d : Device) : Reg → Word
  | .id => Config.idValue
  | .ctrl => d.ctrlWord
  | .status => d.status.word
  | .cmd => d.cmd
  | .keyLen => d.keyLen.setWidth 32
  | .lo o => (d.operand o).setWidth 32
  | .hi o => (d.operand o).extractLsb' 32 32
  | .candLen => d.candLen.setWidth 32
  | .cand k => packWord d.cand k
  | .trunc => d.trunc.setWidth 32
  | .codeVal => d.codeVal.setWidth 32
  | .code k => packWord d.code k
  | .digest k => packWord d.digest k
  | .key _ => 0

/-- What a write that is not ignored does to a register, but for CMD, whose write is an issue (Machine/Bus.lean). A read-only
register ignores it; CMD stores the word (rule R32). -/
def Device.writeReg (d : Device) (r : Reg) (v : Word) : Device :=
  match r with
  | .ctrl => d.writeCtrl v
  | .status => d.clearStatus v
  | .cmd => d.storeCmd v
  | .keyLen => { d with keyLen := v.setWidth 8 }
  | .lo o => d.setOperand o ((d.operand o).extractLsb' 32 32 ++ v)
  | .hi o => d.setOperand o (v ++ (d.operand o).setWidth 32)
  | .candLen => { d with candLen := v.setWidth 4 }
  | .cand k => { d with cand := storeWord d.cand k v }
  | .key k => { d with key := storeWord d.key k v }
  | .id | .trunc | .codeVal | .code _ | .digest _ => d

/-- The algorithm an ALG field selects; none for the reserved value (rule R83). -/
def hashOf : AlgSel → Option HashAlg
  | .sha1 => some .sha1
  | .sha256 => some .sha256
  | .sha512 => some .sha512
  | .reserved => none

/-- The code length of a command: LEN for GEN and TGEN, CAND_LEN for a check (rules R40, R86, R91). -/
def Device.codeLength (d : Device) (op : Op) (f : CmdFields) : BitVec 4 :=
  if op.isGenerate then f.len else d.candLen

/-- What validation answers: the algorithm and the code length, or the one error reported. -/
inductive Validated where
  | ok (alg : HashAlg) (L : Fin 9)
  | error (e : ErrCode)
  deriving DecidableEq, Repr

/-- The `validate` steps of rule R91 after decoding, in the priority of rule R164. -/
def Device.validate (d : Device) (op : Op) (f : CmdFields) : Validated :=
  match hashOf f.alg with
  | none => .error .invalidAlgorithm
  | some alg =>
    if Config.keyMax < d.keyLen.toNat then .error .invalidKeylen
    else if op.isTotp && d.period == 0 then .error .invalidPeriod
    else if h : (d.codeLength op f).toNat ≤ 8 then .ok alg ⟨(d.codeLength op f).toNat, by omega⟩
    else .error .invalidLength

/-- The issue of a decoded command on OTPG (rule R91): flags cleared, the command validated, and either the error taken or
the command latched, set up and started. The CMD register was stored by the bus write (Machine/Bus.lean). -/
def Device.issue (d : Device) (op : Op) (f : CmdFields) (setup : Device → Device) : Device :=
  let d := d.clearFlags
  match d.validate op f with
  | .error e => d.raiseError e
  | .ok alg L => (setup (d.latch op alg f L)).setBusy

end Sys2Proof.Machine
end

