-- ==== Sys2Proof/Machine/Pipeline.lean ====
section
/-! DEFINITION. The code pipeline `Code(alg, key, c, L)` of spec/40_generate.md R100 to R106, for any keyed hash. -/

namespace Sys2Proof.Machine

/-- The 5-tuple `(D, off, T, V, S)` of rule R100. -/
structure CodeResult where
  digest : List Byte
  offset : Nat
  trunc : Nat
  value : Nat
  chars : List Byte
  deriving DecidableEq, Repr

/-- The offset: the low four bits of the digest's last byte (rule R103). -/
def digestOffset (D : List Byte) : Nat := (byteAt D (D.length - 1) &&& 0x0F#8).toNat

/-- The four bytes at the offset as a big-endian number, the sign bit masked off (rule R104). -/
def truncated (D : List Byte) : Nat :=
  beVal ((D.drop (digestOffset D)).take 4) &&& 0x7FFFFFFF

/-- The modulus of a code length (rule R105): 10^L, 1 for L = 0. -/
def modulus (L : Nat) : Nat := 10 ^ L

/-- Everything after the hash (rules R103 to R106). -/
def codeOfDigest (D : List Byte) (L : Nat) : CodeResult :=
  let T := truncated D
  let V := T % modulus L
  { digest := D, offset := digestOffset D, trunc := T, value := V, chars := digits L V }

/-- The hashed message: the counter modulo 2^64 in 8 bytes, most significant first (rule R101). -/
def counterMessage (c : Int) : List Byte := beBytes 8 (wrap64 c).toNat

/-- `Code(alg, key, c, L)` (rules R100, R102). -/
def otpCode (kh : KeyedHash) (alg : HashAlg) (key : List Byte) (c : Int) (L : Fin 9) : CodeResult :=
  codeOfDigest (kh alg key (counterMessage c)).toList L

end Sys2Proof.Machine
end

