-- ==== Sys2Proof/Machine/Check.lean ====
section
/-! DEFINITION. The scan sequencer and CHK, HCHK and TCHK (spec/41_check.md R134 to R149): the meaning of each command word, which
is its issue, and the scan step that is the engine step of all three. -/

namespace Sys2Proof.Machine

/-- A window: its first counter SCAN_BASE and its number of counters SCAN_N. -/
structure Window where
  base : DWord
  count : Nat
  deriving DecidableEq, Repr

/-- CHK's window (rule R139). -/
def rangeWindow (start count : DWord) : Window := ⟨start, count.toNat⟩

/-- HCHK's window (rules R141, R142): it wraps below counter 0, and its size does not wrap. -/
def hotpWindow (counter below above : DWord) : Window :=
  ⟨wrap64 ((counter.toNat : Int) - below.toNat), below.toNat + above.toNat⟩

/-- TCHK's window (rules R144 to R146; spec/90_conflicts.md C1): clamped at 0 and masked to 64 bits in timestamp space,
then divided, the end counter included. A wrapped end is no exception to the closed interval of R146 and C1, against R203's derived
sentence: DEDUCED, log 8. -/
def totpWindow (timestamp period below above : DWord) : Window :=
  let sTs := if below.toNat ≤ timestamp.toNat then timestamp.toNat - below.toNat else 0
  let eTs := (wrap64 (timestamp.toNat + above.toNat)).toNat
  let sC := sTs / period.toNat
  let eC := eTs / period.toNat
  ⟨wrap64 sC, if sC ≤ eC then eC - sC + 1 else 0⟩

/-- The setup of a check over a window: rule R138, then SCAN_BASE and SCAN_N. -/
def setupScan (w : Window) (d : Device) : Device := d.clearResults.setWindow w.base w.count

/-- `setup(CHK)` (rule R139). -/
def setupChk (d : Device) : Device := setupScan (rangeWindow d.start d.count) d

/-- `setup(HCHK)` (rule R141). -/
def setupHchk (d : Device) : Device := setupScan (hotpWindow d.counter d.below d.above) d

/-- `setup(TCHK)` (rule R144). -/
def setupTchk (d : Device) : Device := setupScan (totpWindow d.timestamp d.period d.below d.above) d

/-- CHK: its issue (rules R91, R139). Engine steps `engineChk` scan the window and complete it. -/
def execChk (f : CmdFields) (s : State) : Host.Outcome State Fault Refusal :=
  .next (s.withDev (s.dev.issue .chk f setupChk))

/-- HCHK: its issue (rules R91, R141). Engine steps `engineHchk` scan the window and complete it. -/
def execHchk (f : CmdFields) (s : State) : Host.Outcome State Fault Refusal :=
  .next (s.withDev (s.dev.issue .hchk f setupHchk))

/-- TCHK: its issue (rules R91, R144). Engine steps `engineTchk` scan the window and complete it. -/
def execTchk (f : CmdFields) (s : State) : Host.Outcome State Fault Refusal :=
  .next (s.withDev (s.dev.issue .tchk f setupTchk))

/-- Counter `i` of a window: `wrap64(SCAN_BASE + i)` (rule R134). -/
def windowCounter (base : DWord) (i : Nat) : DWord := wrap64 ((base.toNat : Int) + i)

/-- The scan has a counter to evaluate (the condition of rule R134). -/
def Engine.scanning (e : Engine) : Bool := decide (e.scanI < e.scanN) && !(e.vt && e.acc)

/-- The code string of the window's counter `i`, at the latched algorithm and length. -/
def Device.windowCode (kh : KeyedHash) (d : Device) (i : Nat) : List Byte :=
  (otpCode kh d.engine.alg d.keyBytes (windowCounter d.engine.scanBase i).toNat d.engine.len).chars

/-- The comparison of the candidate with a code string, in the latched mode (rules R131, R132, R134). -/
def Device.compare (d : Device) (S : List Byte) : Comparison :=
  if d.engine.vt then matchVt d.candBytes S d.engine.len else matchCt d.candBytes S d.engine.len

/-- The scan step (rules R134, R135): one counter evaluated, or the completion. -/
def scanStep (kh : KeyedHash) (d : Device) : Device :=
  if d.engine.scanning then d.scanned (d.compare (d.windowCode kh d.engine.scanI)).equal
  else (d.setMatch d.engine.acc).finish

/-- The engine step of CHK. -/
def engineChk (kh : KeyedHash) (d : Device) : Device := scanStep kh d

/-- The engine step of HCHK. -/
def engineHchk (kh : KeyedHash) (d : Device) : Device := scanStep kh d

/-- The engine step of TCHK. -/
def engineTchk (kh : KeyedHash) (d : Device) : Device := scanStep kh d

end Sys2Proof.Machine
end

