-- ==== Sys2Proof/Machine/Generate.lean ====
section
/-! DEFINITION. GEN and TGEN (spec/40_generate.md R110 to R115): the meaning of each command word, which is its issue, and the one
engine step each takes after it. -/

namespace Sys2Proof.Machine

/-- The TOTP counter `TIMESTAMP div PERIOD` (rule R113). -/
def totpCounter (timestamp period : DWord) : DWord := wrap64 (timestamp.toNat / period.toNat : Nat)

/-- `setup(GEN)` (rule R110). -/
def setupGen (d : Device) : Device := d.setCounter d.counter

/-- `setup(TGEN)` (rule R112). -/
def setupTgen (d : Device) : Device := d.setCounter (totpCounter d.timestamp d.period)

/-- GEN: its issue (rules R91, R110). The engine step `engineGen` completes it. -/
def execGen (f : CmdFields) (s : State) : Host.Outcome State Fault Refusal :=
  .next (s.withDev (s.dev.issue .gen f setupGen))

/-- TGEN: its issue (rules R91, R112). The engine step `engineTgen` completes it. -/
def execTgen (f : CmdFields) (s : State) : Host.Outcome State Fault Refusal :=
  .next (s.withDev (s.dev.issue .tgen f setupTgen))

/-- The code of E_CTR under the latched algorithm and length (rules R110, R112). -/
def Device.engineCode (kh : KeyedHash) (d : Device) : CodeResult :=
  otpCode kh d.engine.alg d.keyBytes d.engine.ctr.toNat d.engine.len

/-- The code computed and its results written (rule R114). -/
def Device.generate (kh : KeyedHash) (d : Device) : Device :=
  let r := d.engineCode kh
  d.writeResults r.digest r.trunc r.value r.chars

/-- The engine step of GEN (rules R110, R115): results, COUNTER under AINC, completion. -/
def engineGen (kh : KeyedHash) (d : Device) : Device :=
  let d' := d.generate kh
  (if d.engine.ainc then d'.writeCounter (wrap64 (d.engine.ctr.toNat + 1)) else d').finish

/-- The engine step of TGEN (rule R112): as GEN's, COUNTER not written. -/
def engineTgen (kh : KeyedHash) (d : Device) : Device := (d.generate kh).finish

end Sys2Proof.Machine
end

