-- ==== Sys2Proof/Machine/Dispatch.lean ====
section
/-! DEFINITION. The meaning of each command: its issue (spec/30_encoding.md R91) after the word is stored in CMD. -/

namespace Sys2Proof.Machine

def exec (i : Instr) (s : State) : Host.Outcome State Fault Refusal :=
  match i with
  | .gen f => Sys2Proof.Machine.execGen f s
  | .chk f => Sys2Proof.Machine.execChk f s
  | .hchk f => Sys2Proof.Machine.execHchk f s
  | .tgen f => Sys2Proof.Machine.execTgen f s
  | .tchk f => Sys2Proof.Machine.execTchk f s

end Sys2Proof.Machine
end

