-- ==== Sys2Proof/Machine/Bus.lean ====
section
/-! DEFINITION. Host accesses to the register aperture (spec/20_memory.md R60 to R69), among them the write of CMD, which
issues a command (spec/30_encoding.md R91). -/

namespace Sys2Proof.Machine

/-- A legal access: exactly 4 bytes, at a multiple of 4, inside the aperture (rules R62, R63). -/
def busLegal (off bytes : Nat) : Bool :=
  bytes == 4 && off % 4 == 0 && decide (off < Config.aperture)

/-- A read's response (rules R62 to R64): a register's value, 0 at a reserved offset, a bus error if the access is not legal.
It is a function of the state alone and changes none of it (rule R68). -/
def busRead (d : Device) (off bytes : Nat) : BusResponse :=
  if busLegal off bytes then
    match regAt off with
    | some r => .data (d.readReg r)
    | none => .data 0
  else .busError

/-- The issue of the word `w` with BUSY = 0 (rule R91): CMD stored, then the decoded command runs; a word that is no command is
the error INVALID_COMMAND (rules R87, R89, R163). -/
def issueWord (w : Word) (s : State) : Host.Outcome State Fault Refusal :=
  match decode w with
  | .instr i => exec i (s.withDev (s.dev.storeCmd w))
  | .rejected _ => .next (s.withDev ((s.dev.storeCmd w).clearFlags.raiseError .invalidCommand))

/-- A legal write to a register: an operand write is ignored while BUSY = 1 (rule R67), a write to CMD issues (rule R69), and
every other write stores what the register's access type says. -/
def writeRegister (r : Reg) (v : Word) (s : State) : Host.Outcome State Fault Refusal :=
  if r.isOperand && s.dev.status.busy then .next (s.withDev s.dev.ignoreWrite)
  else
    match r with
    | .cmd => issueWord v s
    | r => .next (s.withDev (s.dev.writeReg r v))

/-- A write access: a legal one is acknowledged, whatever the register does with it; a reserved offset ignores it (rule R64);
an illegal one is rejected and changes nothing of OTPG (rule R63). The acknowledgement: log 5. -/
def busWrite (off bytes : Nat) (v : Word) (s : State) : Host.Outcome State Fault Refusal :=
  if busLegal off bytes then
    match regAt off with
    | some r => writeRegister r v (s.respond .ack)
    | none => .next (s.respond .ack)
  else .next (s.respond .busError)

/-- The platform address of an offset (rule R61, parameter OTPG_BASE). -/
def platformAddress (off : Nat) : Nat := Config.otpgBase + off

end Sys2Proof.Machine
end

