-- ==== Sys2Proof/Machine/EngineStep.lean ====
section
/-! DEFINITION. The engine's step (spec/10_state.md R20, R27): one step of the accepted command while BUSY = 1, none while
BUSY = 0. -/

namespace Sys2Proof.Machine

/-- The engine step of the operation E_OP. -/
def engineWork (kh : KeyedHash) (d : Device) : Device :=
  match d.engine.op with
  | .gen => engineGen kh d
  | .tgen => engineTgen kh d
  | .chk => engineChk kh d
  | .hchk => engineHchk kh d
  | .tchk => engineTchk kh d

/-- The engine moves only while BUSY = 1 (rule R27). -/
def engineStep (kh : KeyedHash) (d : Device) : Device :=
  if d.status.busy then engineWork kh d else d

end Sys2Proof.Machine
end

