-- ==== Sys2Proof/Machine/Schedule.lean ====
section
/-! DEFINITION. The interleaving of host accesses and engine steps (spec/20_memory.md R70): whose turn it is, and what each turn
does. The keyed hash is an argument; Machine/Step.lean gives it the machine's own. -/

namespace Sys2Proof.Machine

/-- The next turn. With no turn listed the engine moves while it has a step, else the host: one of the interleavings rule
R70 allows (DESIGN CHOICE, log 4). -/
def State.nextTurn (s : State) : Turn :=
  match s.turns with
  | t :: _ => t
  | [] => if s.dev.status.busy then .engine else .host

/-- The machine with that turn taken off the list. -/
def State.popTurn (s : State) : State := { s with turns := s.turns.tail }

def State.withPending (s : State) (p : List HostAction) : State := { s with pending := p }

/-- The host's turn: its next action, in host order. With none left OTPG waits (rule R191). POLL reads STATUS and stays the
next action while the read shows BUSY = 1 (rule R93; log 9). -/
def hostTurn (s : State) : Host.Outcome State Fault Refusal :=
  match s.pending with
  | [] => .next s
  | .rd off bytes :: rest => .next ((s.withPending rest).respond (busRead s.dev off bytes))
  | .wr off bytes v :: rest => busWrite off bytes v (s.withPending rest)
  | .poll :: rest =>
    let s' := s.respond (busRead s.dev Reg.status.offset 4)
    .next (if s.dev.status.busy then s' else s'.withPending rest)

/-- One turn of the machine. A reset turn is the platform's reset input (rule R191; log 3). -/
def runTurn (kh : KeyedHash) (t : Turn) (s : State) : Host.Outcome State Fault Refusal :=
  match t with
  | .host => hostTurn s
  | .engine => .next (s.withDev (engineStep kh s.dev))
  | .reset => .next (s.withDev Device.reset)

/-- One step of the machine under the keyed hash `kh`. -/
def stepWith (kh : KeyedHash) (s : State) : Host.Outcome State Fault Refusal :=
  runTurn kh s.nextTurn s.popTurn

end Sys2Proof.Machine
end

