-- ==== Sys2Proof/Machine/Step.lean ====
section
/-! DEFINITION. One step of the machine, and how a command word comes to be the next thing it runs. -/

namespace Sys2Proof.Machine

/-- One step: one host access, one engine step or one reset (spec/00_scope.md R14), under the machine's keyed hash. -/
def step (s : State) : Host.Outcome State Fault Refusal := stepWith Config.kh s

/-- The state in which the very next step issues the command word `w`: the host's next action is the write of `w` to CMD,
the next turn is the host's, and the engine is idle, as an issue needs (rule R91). OTPG fetches nothing (rule R48): this
is the host presenting the word. DESIGN CHOICE, log 6. -/
def State.withFetchWord (s : State) (nbits w : Nat) : State :=
  { s with
    dev := { s.dev with status := { s.dev.status with busy := false } }
    pending := .wr Reg.cmd.offset 4 (BitVec.ofNat 32 (w % 2 ^ nbits)) :: s.pending
    turns := .host :: s.turns }

end Sys2Proof.Machine
end

