-- ==== Sys2Proof/Machine/Assembler.lean ====
section
/-! DEFINITION. The assembler's lines and pseudo-instructions as lists of host actions (spec/30_encoding.md R92 to R94). Their text
form is not modelled (log 10); each function is one line of the language, its default arguments the spec's. -/

namespace Sys2Proof.Machine

/-- `WR <REG>, <imm32>` -/
def asmWr (r : Reg) (v : Word) : List HostAction := [.wr r.offset 4 v]

/-- `RD <REG>` -/
def asmRd (r : Reg) : List HostAction := [.rd r.offset 4]

/-- A command mnemonic: the bus write of its word to CMD. -/
def asmCmd (i : Instr) : List HostAction := asmWr .cmd (encode i)

/-- `WR64 <NAME>, <imm64>`: LO, then HI. -/
def asmWr64 (o : Operand64) (v : DWord) : List HostAction :=
  asmWr (.lo o) (v.setWidth 32) ++ asmWr (.hi o) (v.extractLsb' 32 32)

/-- `POLL` -/
def asmPoll : List HostAction := [.poll]

/-- `KEY "<bytes>"` (at most 128 bytes): KEY_k for k below ceil(n/4), missing bytes 0, then KEYLEN. -/
def asmKey (s : List Byte) : List HostAction :=
  ((List.finRange 32).filter fun k => decide (4 * k.val < s.length)).flatMap
      (fun k => asmWr (.key k) (packWord (padTo 128 s) k))
    ++ asmWr .keyLen (BitVec.ofNat 32 s.length)

/-- `CAND "<bytes>"` (at most 8 bytes). -/
def asmCand (s : List Byte) : List HostAction :=
  (List.finRange 2).flatMap (fun k => asmWr (.cand k) (packWord (padTo 8 s) k))
    ++ asmWr .candLen (BitVec.ofNat 32 s.length)

/-- `HOTP_GEN[.<alg>] [L]` -/
def asmHotpGen (alg : AlgSel := .sha1) (L : BitVec 4 := 6) : List HostAction :=
  asmCmd (.gen { alg := alg, len := L })

/-- `HOTP_CHECK[.<alg>][.VT] [below, above]` (rule R143 gives the defaults' reason). -/
def asmHotpCheck (alg : AlgSel := .sha1) (vt : Bool := false) (below : DWord := 0) (above : DWord := 15) :
    List HostAction :=
  asmWr64 .below below ++ asmWr64 .above above ++ asmCmd (.hchk { alg := alg, vt := vt })

/-- `TOTP_GEN[.<alg>] [L, period]` -/
def asmTotpGen (alg : AlgSel := .sha1) (L : BitVec 4 := 6) (period : DWord := 30) : List HostAction :=
  asmWr64 .period period ++ asmCmd (.tgen { alg := alg, len := L })

/-- `TOTP_CHECK[.<alg>][.VT] [period, below, above]` -/
def asmTotpCheck (alg : AlgSel := .sha1) (vt : Bool := false)
    (period : DWord := 30) (below : DWord := 30) (above : DWord := 30) : List HostAction :=
  asmWr64 .period period ++ asmWr64 .below below ++ asmWr64 .above above
    ++ asmCmd (.tchk { alg := alg, vt := vt })

/-- `CHECK_RANGE[.<alg>][.VT] start, end` for integers with end - start < 2^64 (rule R140). -/
def asmCheckRange (alg : AlgSel := .sha1) (vt : Bool := false) (first last : Int) : List HostAction :=
  asmWr64 .start (wrap64 first) ++ asmWr64 .count (wrap64 (max 0 (last - first)))
    ++ asmCmd (.chk { alg := alg, vt := vt })

/-- One round of `SEQ`: the code of the next counter, and the reads of it. -/
def asmSeqRound (alg : AlgSel) (L : BitVec 4) : List HostAction :=
  asmCmd (.gen { alg := alg, ainc := true, len := L }) ++ asmPoll ++ asmRd (.code 0) ++ asmRd (.code 1)

/-- `SEQ[.<alg>] L, start, n` (rule R115). -/
def asmSeq (alg : AlgSel := .sha1) (L : BitVec 4) (start : DWord) (n : Nat) : List HostAction :=
  asmWr64 .counter start ++ (List.replicate n (asmSeqRound alg L)).flatten

end Sys2Proof.Machine
end

