-- ==== Sys2Proof/Machine/Hmac.lean ====
section
/-! DEFINITION. The intended instance of the keyed hash, HMAC (spec/00_scope.md R9; spec/93_implementation_defined.md G1, G6), over
a hash function the spec does not define (R6 f). The machine does not depend on it: KH stays a parameter (logs 1 and 16). -/

namespace Sys2Proof.Machine

/-- An unkeyed hash: SHA1, SHA256 or SHA512, whose internals are out of scope (rule R6). -/
abbrev HashFn := (alg : HashAlg) → List Byte → Vector Byte (digestLen alg)

/-- B, the block size in bytes. -/
def blockLen : HashAlg → Nat
  | .sha1 => 64
  | .sha256 => 64
  | .sha512 => 128

/-- K0: the key, or its hash where it is longer than a block, right-padded with zero bytes to one block. -/
def hmacKeyBlock (H : HashFn) (alg : HashAlg) (key : List Byte) : Vector Byte (blockLen alg) :=
  padTo (blockLen alg) (if key.length ≤ blockLen alg then key else (H alg key).toList)

/-- `HMAC(K, m) = H((K0 xor opad) || H((K0 xor ipad) || m))`. -/
def hmac (H : HashFn) : KeyedHash := fun alg key msg =>
  let k0 := (hmacKeyBlock H alg key).toList
  H alg (k0.map (· ^^^ 0x5C#8) ++ (H alg (k0.map (· ^^^ 0x36#8) ++ msg)).toList)

end Sys2Proof.Machine
end

