-- ==== Sys2Proof/Safety.lean ====
section
/-! DEFINITION. The terms the claims use: running the engine and what an observer counts, when a command is accepted, the windows, the
invariants of OTPG's state, and the digests that spec/95_test_vectors.md pins. -/

namespace Sys2Proof.Machine

/-! ## Runs -/

/-- A safe step is one that answers a next state: no fault, no refusal. -/
def SafeStep (s : State) : Prop := ∃ t, step s = .next t

/-- `n` engine steps with no host access between them (spec/20_memory.md R70). -/
def engineRun (kh : KeyedHash) : Nat → Device → Device
  | 0, d => d
  | n + 1, d => engineRun kh n (engineStep kh d)

/-- What the next engine step hashes, and how many byte lanes its comparison examines (none for GEN and TGEN, which compare
nothing): the observations of spec/70_reset_and_hazards.md R205. -/
def Device.observed (kh : KeyedHash) (d : Device) : Option (DWord × Nat) :=
  if d.status.busy then
    if d.engine.op.isGenerate then some (d.engine.ctr, 0)
    else if d.engine.scanning then
      some (windowCounter d.engine.scanBase d.engine.scanI, (d.compare (d.windowCode kh d.engine.scanI)).lanes)
    else none
  else none

/-- The observations of `n` engine steps, in order. -/
def engineTrace (kh : KeyedHash) : Nat → Device → List (Option (DWord × Nat))
  | 0, _ => []
  | n + 1, d => d.observed kh :: engineTrace kh n (engineStep kh d)

/-- One `GEN` on its own: its issue, then its engine step. A run that stopped would leave the state as it was. -/
def genRound (kh : KeyedHash) (f : CmdFields) (s : State) : State :=
  match exec (.gen f) s with
  | .next t => t.withDev (engineStep kh t.dev)
  | .fault _ => s
  | .refused _ => s

/-- `n` such commands, one after another (spec/40_generate.md R115). -/
def genRounds (kh : KeyedHash) (f : CmdFields) : Nat → State → State
  | 0, s => s
  | n + 1, s => genRound kh f (genRounds kh f n s)

/-! ## Issue -/

/-- The conditions of spec/30_encoding.md R91 under which the command is accepted, with the algorithm and the code length it then
runs at. -/
structure Device.Accepts (d : Device) (op : Op) (f : CmdFields) (alg : HashAlg) (L : Fin 9) : Prop where
  algorithm : hashOf f.alg = some alg
  keyFits : d.keyLen.toNat ≤ 128
  periodSet : op.isTotp = true → d.period ≠ 0
  lengthIs : (d.codeLength op f).toNat = L.val

/-- STATUS right after an accepted issue (R91): BUSY set, the flags of the last command cleared, WIGN as it was. -/
def Status.issued (st : Status) : Status :=
  { busy := true, done := false, err := false, matched := false, wign := st.wign, errcode := .none }

/-- STATUS right after a rejected issue (spec/60_exceptions.md R163). -/
def Status.rejected (st : Status) (e : ErrCode) : Status :=
  { busy := st.busy, done := false, err := true, matched := false, wign := st.wign, errcode := e }

/-- STATUS right after a command completes with the result `m` (GEN and TGEN: false), WIGN as it was. -/
def Status.completed (st : Status) (m : Bool) : Status :=
  { busy := false, done := true, err := false, matched := m, wign := st.wign, errcode := .none }

/-- The window the operand registers give a check (R139, R141, R144). GEN and TGEN have none. -/
def Device.window (d : Device) : Op → Window
  | .gen => ⟨0, 0⟩
  | .tgen => ⟨0, 0⟩
  | .chk => rangeWindow d.start d.count
  | .hchk => hotpWindow d.counter d.below d.above
  | .tchk => totpWindow d.timestamp d.period d.below d.above

/-- Counter `i` of a window has the candidate as its code (spec/41_check.md R135). -/
def matchAt (kh : KeyedHash) (alg : HashAlg) (key cand : List Byte) (base : DWord) (L : Fin 9) (i : Nat) : Bool :=
  codeMatches cand (otpCode kh alg key (windowCounter base i).toNat L).chars L

/-- The same, of the command in progress. -/
def Device.matchesAt (kh : KeyedHash) (d : Device) (i : Nat) : Bool :=
  matchAt kh d.engine.alg d.keyBytes d.candBytes d.engine.scanBase d.engine.len i

/-- The two words' fields agree where the operation uses them (spec/30_encoding.md R81, R88). -/
def CmdFields.sameUsed (op : Op) (f g : CmdFields) : Prop :=
  f.alg = g.alg
    ∧ (op = .gen → f.ainc = g.ainc)
    ∧ (op.isGenerate = true → f.len = g.len)
    ∧ (op.isGenerate = false → f.vt = g.vt)

/-! ## Invariants -/

/-- What holds of OTPG's own registers in every reachable state. -/
structure Device.Inv (d : Device) : Prop where
  /-- DONE and ERR are never both 1 (spec/10_state.md R28). -/
  notBoth : ¬(d.status.done = true ∧ d.status.err = true)
  /-- ERRCODE = 0 exactly while ERR = 0 (R29). -/
  codeWithErr : d.status.err = false ↔ d.status.errcode = .none
  /-- While BUSY = 1 the flags of the last command stay cleared (R28, R30). -/
  busyCleared : d.status.busy = true →
    d.status.done = false ∧ d.status.err = false ∧ d.status.matched = false
  /-- SCAN_I never passes SCAN_N (R46, R48). -/
  scanWithin : d.engine.scanI ≤ d.engine.scanN
  /-- SCAN_N is below 2^65 (R46). -/
  scanSize : d.engine.scanN < 2 ^ 65
  /-- CODE_VAL is below 10^8 (R43). -/
  codeBound : d.codeVal.toNat < 10 ^ 8

/-- While a command runs, the hidden state is what the issue of the word in CMD makes of the operand registers AS THEY ARE NOW:
the operands hold their issue-time values to the end (spec/20_memory.md R67, R74). -/
def Device.Held (d : Device) : Prop :=
  d.status.busy = true →
    ∃ i, decode d.cmd = .instr i
      ∧ d.engine.op = i.op
      ∧ d.Accepts i.op i.fields d.engine.alg d.engine.len
      ∧ d.engine.vt = i.fields.vt
      ∧ d.engine.ainc = i.fields.ainc
      ∧ (i.op = .gen → d.engine.ctr = d.counter)
      ∧ (i.op = .tgen → d.engine.ctr = totpCounter d.timestamp d.period)
      ∧ (i.op.isGenerate = false → ⟨d.engine.scanBase, d.engine.scanN⟩ = d.window i.op)

/-- While a check runs, ACC says whether one of the counters evaluated so far has the candidate as its code, and no result
register holds anything (R134, R138). -/
def Device.ScanRight (kh : KeyedHash) (d : Device) : Prop :=
  d.status.busy = true → d.engine.op.isGenerate = false →
    (d.engine.acc = true ↔ ∃ i < d.engine.scanI, d.matchesAt kh i = true)
      ∧ d.trunc = 0 ∧ d.codeVal = 0 ∧ d.code = Vector.replicate 8 0 ∧ d.digest = Vector.replicate 64 0

/-! ## The digests spec/95_test_vectors.md pins (spec/00_scope.md R9) -/

/-- One pinned value of the keyed hash: the digest as a big-endian number. -/
structure KhVector where
  alg : HashAlg
  key : List Byte
  counter : Int
  digest : Nat

/-- K20, "12345678901234567890". -/
def k20 : List Byte :=
  [0x31, 0x32, 0x33, 0x34, 0x35, 0x36, 0x37, 0x38, 0x39, 0x30, 0x31, 0x32, 0x33, 0x34, 0x35, 0x36, 0x37, 0x38, 0x39, 0x30]

/-- K32, the 32-byte key of section 1.3. -/
def k32 : List Byte := k20 ++ k20.take 12

/-- K64, the 64-byte key of section 1.3. -/
def k64 : List Byte := k20 ++ k20 ++ k20 ++ k20.take 4

/-- Sections 1.1, 1.3 and 2.1 to 2.3. -/
def khVectors : List KhVector :=
  [⟨.sha1, k20, 0, 0xcc93cf18508d94934c64b65d8ba7667fb7cde4b0⟩,
   ⟨.sha1, k20, 1, 0x75a48a19d4cbe100644e8ac1397eea747a2d33ab⟩,
   ⟨.sha1, k20, 2, 0x0bacb7fa082fef30782211938bc1c5e70416ff44⟩,
   ⟨.sha1, k20, 3, 0x66c28227d03a2d5529262ff016a1e6ef76557ece⟩,
   ⟨.sha1, k20, 4, 0xa904c900a64b35909874b33e61c5938a8e15ed1c⟩,
   ⟨.sha1, k20, 5, 0xa37e783d7b7233c083d4f62926c7a25f238d0316⟩,
   ⟨.sha1, k20, 6, 0xbc9cd28561042c83f219324d3c607256c03272ae⟩,
   ⟨.sha1, k20, 7, 0xa4fb960c0bc06e1eabb804e5b397cdc4b45596fa⟩,
   ⟨.sha1, k20, 8, 0x1b3c89f65e6c9e883012052823443f048b4332db⟩,
   ⟨.sha1, k20, 9, 0x1637409809a679dc698207310c8c7fc07290d9e5⟩,
   ⟨.sha1, k20, 34, 0xbb3fafd7acb8dd435428932cd0f3d019da7dbf9f⟩,
   ⟨.sha1, k20, 0xFFFFFFFFFFFFFFFF, 0xf616fd66b7f06290686b6320ceb34d65b1fe93ea⟩]
  ++
  [⟨.sha1, k20, 0xFFFFFFFFFFFFFFFE, 0x351145ccdc074caa7feec5d73e91e7fbadfb32b3⟩,
   ⟨.sha1, k20, 0x0000000100000000, 0x7c9fd37f3b71aad82c508f423de075df9a15fbea⟩,
   ⟨.sha1, k20, 0x0888888888888888, 0xa572c0eeee6cbeb6f6e3047601c6b8d9aeff8dd0⟩,
   ⟨.sha1, [], 0, 0xdab69ad98e28764f977ee2487e4f3f6873b2a297⟩,
   ⟨.sha256, k32, 1, 0x392514c9dd4165d4709456062c78e04e16e68718515951333bdb8b26caa3053c⟩,
   ⟨.sha512, k64, 1,
     0x6f76f324230cefda1d3f65309a0badb36efce9528ada64967d71e4e9d74c4aa37fe7650f931ab86ddccc2d38962d720ee626a20feb311b485a92e3bb0796df28⟩]

/-- The keyed hash takes the pinned values. Assumption log 1 says why this is a premise and never a fact of `Config.kh`. -/
def Pinned (kh : KeyedHash) : Prop :=
  ∀ v ∈ khVectors, (kh v.alg v.key (counterMessage v.counter)).toList = beBytes (digestLen v.alg) v.digest

end Sys2Proof.Machine
end

