-- ==== Sys2Proof/Certificates/Slice0/Obligations.lean ====
section
/-! DEFINITION. The statements for the provers, in the order of OBLIGATIONS.json. Each docstring names the rules of spec/ it
formalises. Unless a statement says otherwise it holds for every keyed hash `kh`, the machine's own among them. -/

open Sys2Proof Sys2Proof.Machine

/-! ## Encoding (spec/30_encoding.md) -/

/-- R81, R82, R92: decoding the encoding of any command, with every value of every field, gives it back. -/
def Obligations.DecodeOfEncode : Prop :=
  ∀ i : Instr, decode (encode i) = .instr i

/-- R81, R82: no bit of a command word is dropped, so the encoding of what a word decodes to is that word. -/
def Obligations.EncodeOfDecode : Prop :=
  ∀ (w : Word) (i : Instr), decode w = .instr i → encode i = w

/-- R82, R87 and the rows of spec/opcode_table.json: a word decodes to an operation exactly when it agrees with the row's match under
the row's mask. -/
def Obligations.DecodeAgreesWithOpcodeTable : Prop :=
  ∀ w : Word,
    ((∃ f, decode w = .instr (.gen f)) ↔ w &&& 0xFFFFF00F#32 = 0x00000001#32)
    ∧ ((∃ f, decode w = .instr (.chk f)) ↔ w &&& 0xFFFFF00F#32 = 0x00000002#32)
    ∧ ((∃ f, decode w = .instr (.hchk f)) ↔ w &&& 0xFFFFF00F#32 = 0x00000003#32)
    ∧ ((∃ f, decode w = .instr (.tgen f)) ↔ w &&& 0xFFFFF00F#32 = 0x00000004#32)
    ∧ ((∃ f, decode w = .instr (.tchk f)) ↔ w &&& 0xFFFFF00F#32 = 0x00000005#32)

/-- R89: the words that decode to a well-formed command are exactly those no clause of the rule's list makes illegal. -/
def Obligations.LegalWordsAreWellFormed : Prop :=
  ∀ w : Word,
    (∃ i, decode w = .instr i ∧ i.wellFormed = true) ↔
      w.extractLsb' 12 20 = 0
        ∧ (w.extractLsb' 0 4).toNat ∈ [1, 2, 3, 4, 5]
        ∧ w.extractLsb' 4 2 ≠ 3
        ∧ ((w.extractLsb' 0 4).toNat ∈ [1, 4] → (w.extractLsb' 8 4).toNat ≤ 8)

/-- R92: the example words of the assembler's rule stand for the commands it names. -/
def Obligations.AssemblerExampleWordsDecode : Prop :=
  decode 0x00000601#32 = .instr (.gen { len := 6 })
  ∧ decode 0x00000681#32 = .instr (.gen { ainc := true, len := 6 })
  ∧ decode 0x00000811#32 = .instr (.gen { alg := .sha256, len := 8 })
  ∧ decode 0x00000804#32 = .instr (.tgen { len := 8 })
  ∧ decode 0x00000824#32 = .instr (.tgen { alg := .sha512, len := 8 })
  ∧ decode 0x00000002#32 = .instr (.chk {})
  ∧ decode 0x00000042#32 = .instr (.chk { vt := true })
  ∧ decode 0x00000003#32 = .instr (.hchk {})
  ∧ decode 0x00000055#32 = .instr (.tchk { alg := .sha256, vt := true })

/-! ## Issue (spec/30_encoding.md R91, spec/60_exceptions.md) -/

/-- R69, R91: where the host's next action writes a word to CMD and BUSY = 0, the step is the issue of that word, whatever the word, on the
state with the action performed; and where the word decodes, it is `exec` of the decoded command with CMD holding the word. That the write is
answered by an acknowledgement is the model's choice (log 5). -/
def Obligations.StepIssuesDecodedCommand : Prop :=
  ∀ (s : State) (rest : List HostAction) (w : Word),
    s.nextTurn = .host → s.pending = .wr 0x00C 4 w :: rest → s.dev.status.busy = false →
    step s = issueWord w
      { dev := s.dev, pending := rest, turns := s.turns.tail, responses := .ack :: s.responses }
    ∧ ∀ i, decode w = .instr i → step s = exec i
      { dev := { s.dev with cmd := w }, pending := rest, turns := s.turns.tail, responses := .ack :: s.responses }

/-- `withFetchWord` (log 6): the very next step runs the command the table's word decodes to. The
acknowledgement of the write is the model's choice (log 5). -/
def Obligations.FetchWordRunsNext : Prop :=
  ∀ (s : State) (nbits w : Nat) (i : Instr), decodeTableWord nbits w = some i →
    step (s.withFetchWord nbits w) = exec i
      { dev := { s.dev with cmd := BitVec.ofNat 32 (w % 2 ^ nbits), status := { s.dev.status with busy := false } },
        pending := s.pending, turns := s.turns, responses := .ack :: s.responses }

/-- R87, and R82 for the reserved opcodes: a word with a reserved bit set, or with a reserved opcode, is stored and rejected with
INVALID_COMMAND, and nothing else changes. -/
def Obligations.ReservedWordIsInvalidCommand : Prop :=
  ∀ (w : Word) (s : State),
    (w.extractLsb' 12 20 ≠ 0 ∨ (w.extractLsb' 0 4).toNat ∉ [1, 2, 3, 4, 5]) →
    issueWord w s = .next (s.withDev
      { s.dev with cmd := w, status := s.dev.status.rejected .invalidCommand })

/-- R164: exactly one error is reported, the first that applies in the rule's order, and none where none applies. The conditions are
those of R91 and R161, on the bits of the word. -/
def Obligations.IssueReportsFirstError : Prop :=
  ∀ (w : Word) (s : State), ∃ t, issueWord w s = .next t
    ∧ t.dev.status.errcode =
        (if w.extractLsb' 12 20 ≠ 0 ∨ (w.extractLsb' 0 4).toNat ∉ [1, 2, 3, 4, 5] then .invalidCommand
         else if w.extractLsb' 4 2 = 3 then .invalidAlgorithm
         else if 128 < s.dev.keyLen.toNat then .invalidKeylen
         else if (w.extractLsb' 0 4).toNat ∈ [4, 5] ∧ s.dev.period = 0 then .invalidPeriod
         else if 8 < (if (w.extractLsb' 0 4).toNat ∈ [1, 4] then w.extractLsb' 8 4 else s.dev.candLen).toNat
           then .invalidLength
         else .none)
    ∧ (t.dev.status.err = true ↔ t.dev.status.errcode ≠ .none)

/-- R163: a rejected issue changes nothing but CMD and STATUS and leaves BUSY = 0, and an accepted one sets BUSY = 1 and leaves ERR = 0
and ERRCODE = 0. -/
def Obligations.RejectedIssueChangesOnlyCmdAndStatus : Prop :=
  ∀ (w : Word) (s : State), s.dev.status.busy = false →
    ∃ t, issueWord w s = .next t
      ∧ t.pending = s.pending ∧ t.turns = s.turns ∧ t.responses = s.responses
      ∧ (t.dev.status.err = true →
          t.dev = { s.dev with cmd := w, status := s.dev.status.rejected t.dev.status.errcode }
            ∧ t.dev.status.busy = false ∧ t.dev.status.errcode ≠ .none)
      ∧ (t.dev.status.err = false → t.dev.status.busy = true ∧ t.dev.status.errcode = .none)

/-- R165: the error of a check depends on its operation, ALG, KEYLEN, PERIOD and CAND_LEN alone, so neither its mode nor its window
can change it. -/
def Obligations.CheckErrorIgnoresModeAndWindow : Prop :=
  ∀ (i j : Instr) (s u : State), i.op = j.op → i.op.isGenerate = false → i.fields.alg = j.fields.alg →
    s.dev.keyLen = u.dev.keyLen → s.dev.period = u.dev.period → s.dev.candLen = u.dev.candLen →
    ∃ t v, exec i s = .next t ∧ exec j u = .next v
      ∧ t.dev.status.err = v.dev.status.err ∧ t.dev.status.errcode = v.dev.status.errcode

/-- R88: two command words that agree in the fields their operation uses have the same effect. Every register of the aperture reads the
same after both (CMD apart), at the issue and after any number of engine steps, and IRQ is the same. -/
def Obligations.UnusedFieldsChangeNothing : Prop :=
  ∀ (kh : KeyedHash) (i j : Instr) (s : State), i.op = j.op → CmdFields.sameUsed i.op i.fields j.fields →
    ∃ t v, exec i s = .next t ∧ exec j s = .next v
      ∧ ∀ n, (engineRun kh n t.dev).irq = (engineRun kh n v.dev).irq
          ∧ ∀ off, busRead (engineRun kh n t.dev) off 4 = busRead (engineRun kh n v.dev) off 4

/-! ## GEN and TGEN (spec/40_generate.md) -/

/-- R110, R111, R114, R115: an accepted GEN is issued and BUSY until exactly one engine step, which writes the results, advances COUNTER
if AINC is set, and completes. Both states are given whole, so everything else is unchanged. The last two clauses say byte by byte
what CODE and DIGEST then hold: the string, and 0x00 above it. -/
def Obligations.GenRunsInOneEngineStep : Prop :=
  ∀ (kh : KeyedHash) (f : CmdFields) (s : State) (alg : HashAlg) (L : Fin 9), s.dev.Accepts .gen f alg L →
    ∃ t d, exec (.gen f) s = .next t
      ∧ t = s.withDev { s.dev with
          status := s.dev.status.issued
          engine := { s.dev.engine with
            op := .gen, alg := alg, vt := f.vt, ainc := f.ainc, len := L, ctr := s.dev.counter } }
      ∧ engineStep kh t.dev = d
      ∧ d =
          (let r := otpCode kh alg s.dev.keyBytes s.dev.counter.toNat L
          { t.dev with
            trunc := BitVec.ofNat 31 r.trunc
            codeVal := BitVec.ofNat 27 r.value
            code := padTo 8 r.chars
            digest := padTo 64 r.digest
            counter := if f.ainc then s.dev.counter + 1 else s.dev.counter
            status := s.dev.status.completed false })
      ∧ (let r := otpCode kh alg s.dev.keyBytes s.dev.counter.toNat L
        (∀ i : Fin 8, (i.val < L.val → r.chars[i.val]? = some d.code[i])
          ∧ (L.val ≤ i.val → d.code[i] = 0x00#8))
        ∧ ∀ i : Fin 64, (i.val < digestLen alg → r.digest[i.val]? = some d.digest[i])
          ∧ (digestLen alg ≤ i.val → d.digest[i] = 0x00#8))

/-- R112, R113, R114: an accepted TGEN, likewise, at the counter TIMESTAMP div PERIOD; it writes no operand. CODE and DIGEST are given byte
by byte as well. -/
def Obligations.TgenRunsInOneEngineStep : Prop :=
  ∀ (kh : KeyedHash) (f : CmdFields) (s : State) (alg : HashAlg) (L : Fin 9), s.dev.Accepts .tgen f alg L →
    ∃ t c d, exec (.tgen f) s = .next t
      ∧ c.toNat = s.dev.timestamp.toNat / s.dev.period.toNat
      ∧ t = s.withDev { s.dev with
          status := s.dev.status.issued
          engine := { s.dev.engine with
            op := .tgen, alg := alg, vt := f.vt, ainc := f.ainc, len := L, ctr := c } }
      ∧ engineStep kh t.dev = d
      ∧ d =
          (let r := otpCode kh alg s.dev.keyBytes c.toNat L
          { t.dev with
            trunc := BitVec.ofNat 31 r.trunc
            codeVal := BitVec.ofNat 27 r.value
            code := padTo 8 r.chars
            digest := padTo 64 r.digest
            status := s.dev.status.completed false })
      ∧ (let r := otpCode kh alg s.dev.keyBytes c.toNat L
        (∀ i : Fin 8, (i.val < L.val → r.chars[i.val]? = some d.code[i])
          ∧ (L.val ≤ i.val → d.code[i] = 0x00#8))
        ∧ ∀ i : Fin 64, (i.val < digestLen alg → r.digest[i.val]? = some d.digest[i])
          ∧ (digestLen alg ≤ i.val → d.digest[i] = 0x00#8))

/-- R115: `n` consecutive GEN with AINC = 1 leave COUNTER at wrap64(s + n), and the one numbered `n` from 0 leaves the code of counter
wrap64(s + n). The key, its length and COUNTER at the start decide every code, so the sequence is restartable. -/
def Obligations.GenSequenceWalksTheCounters : Prop :=
  ∀ (kh : KeyedHash) (f : CmdFields) (s : State) (alg : HashAlg) (L : Fin 9),
    s.dev.Accepts .gen f alg L → f.ainc = true → ∀ n : Nat,
      (genRounds kh f n s).dev.counter = wrap64 (s.dev.counter.toNat + n)
      ∧ (genRounds kh f (n + 1) s).dev.code =
          padTo 8 (otpCode kh alg s.dev.keyBytes (wrap64 (s.dev.counter.toNat + n)).toNat L).chars

/-- R109: two generate commands with the same algorithm, key string, code length and hashed counter leave the same value in every result
register, whatever else the two states hold. -/
def Obligations.ResultsDependOnlyOnOperands : Prop :=
  ∀ (kh : KeyedHash) (i j : Instr) (s u : State) (alg : HashAlg) (L : Fin 9),
    i.op.isGenerate = true → j.op.isGenerate = true →
    s.dev.Accepts i.op i.fields alg L → u.dev.Accepts j.op j.fields alg L → s.dev.keyBytes = u.dev.keyBytes →
    (if i.op.isTotp then totpCounter s.dev.timestamp s.dev.period else s.dev.counter)
      = (if j.op.isTotp then totpCounter u.dev.timestamp u.dev.period else u.dev.counter) →
    ∃ t v, exec i s = .next t ∧ exec j u = .next v
      ∧ (engineStep kh t.dev).trunc = (engineStep kh v.dev).trunc
      ∧ (engineStep kh t.dev).codeVal = (engineStep kh v.dev).codeVal
      ∧ (engineStep kh t.dev).code = (engineStep kh v.dev).code
      ∧ (engineStep kh t.dev).digest = (engineStep kh v.dev).digest

/-- R101, R116: the hashed message is the 8-byte big-endian form of the counter modulo 2^64, so Code does not change when 2^64 is added
to the counter. -/
def Obligations.CounterIsHashedModulo2Pow64 : Prop :=
  ∀ (kh : KeyedHash) (alg : HashAlg) (key : List Byte) (c : Int) (L : Fin 9),
    (counterMessage c).length = 8
    ∧ (beVal (counterMessage c) : Int) = c % 2 ^ 64
    ∧ otpCode kh alg key (2 ^ 64 + c) L = otpCode kh alg key c L

/-- R104: the truncated value of a digest is 31 bits wide, and is the four bytes at the offset with the top bit of the first one
masked off. -/
def Obligations.TruncatedValueIs31Bits : Prop :=
  ∀ D : List Byte, 20 ≤ D.length →
    let off := digestOffset D
    truncated D = (byteAt D off &&& 0x7F#8).toNat * 2 ^ 24 + (byteAt D (off + 1)).toNat * 2 ^ 16
      + (byteAt D (off + 2)).toNat * 2 ^ 8 + (byteAt D (off + 3)).toNat
    ∧ truncated D ≤ 2147483647

/-- R108: the truncation never reads past the digest. -/
def Obligations.TruncationStaysInsideTheDigest : Prop :=
  ∀ (kh : KeyedHash) (alg : HashAlg) (key msg : List Byte),
    let D := (kh alg key msg).toList
    D.length = digestLen alg ∧ digestOffset D ≤ 15 ∧ digestOffset D + 3 ≤ 18 ∧ 20 ≤ D.length

/-- R102 to R107: the stages of Code. The digest is the keyed hash of the counter's message, the offset is the low four bits of its last byte, the
truncated value is that of the digest, the value is T mod 10^L, and the code has exactly L characters, all of them ASCII digits, that spell the value in decimal. -/
def Obligations.CodeIsDecimalOfLengthL : Prop :=
  ∀ (kh : KeyedHash) (alg : HashAlg) (key : List Byte) (c : Int) (L : Fin 9),
    let r := otpCode kh alg key c L
    r.digest = (kh alg key (counterMessage c)).toList
    ∧ r.offset = digestOffset r.digest ∧ r.offset = (byteAt r.digest (digestLen alg - 1)).toNat % 16
    ∧ r.trunc = truncated r.digest
    ∧ r.chars.length = L
    ∧ (∀ b ∈ r.chars, 0x30 ≤ b.toNat ∧ b.toNat ≤ 0x39)
    ∧ r.value = r.trunc % 10 ^ L.val
    ∧ r.chars.foldl (fun v b => v * 10 + (b.toNat - 0x30)) 0 = r.value

/-- The RFC 4226 vector of spec/95_test_vectors.md 1.1: every keyed hash with the pinned digests gives the source's ten codes. The
premise on the keyed hash is log 1's. -/
def Obligations.Rfc4226CodesUnderPinnedHash : Prop :=
  ∀ kh : KeyedHash, Pinned kh →
    (List.range 10).map (fun c => (otpCode kh .sha1 k20 (c : Nat) 6).value)
      = [755224, 287082, 359152, 969429, 338314, 254676, 287922, 162583, 399871, 520489]

/-! ## The comparator and the checks (spec/41_check.md) -/

/-- R130, R131, R132: both comparators compute `match`; the constant-time one examines all 8 lanes whatever the data. -/
def Obligations.ComparatorsComputeMatch : Prop :=
  ∀ (cand S : List Byte) (L : Nat), L ≤ 8 →
    (matchCt cand S L).equal = codeMatches cand S L
    ∧ (matchVt cand S L).equal = codeMatches cand S L
    ∧ (matchCt cand S L).lanes = 8
    ∧ (matchVt cand S L).lanes ≤ L

/-- R138, R139, R141, R144: an accepted check zeroes every result register at issue and starts the scan of the window its operands give;
nothing else changes. -/
def Obligations.CheckIssueStartsTheScan : Prop :=
  ∀ (i : Instr) (s : State) (alg : HashAlg) (L : Fin 9), i.op.isGenerate = false →
    s.dev.Accepts i.op i.fields alg L →
    exec i s = .next (s.withDev { s.dev with
      status := s.dev.status.issued
      trunc := 0
      codeVal := 0
      code := Vector.replicate 8 0
      digest := Vector.replicate 64 0
      engine := { op := i.op, alg := alg, vt := i.fields.vt, ainc := i.fields.ainc, len := L, ctr := s.dev.engine.ctr,
                  scanBase := (s.dev.window i.op).base, scanN := (s.dev.window i.op).count, scanI := 0, acc := false } })

/-- R141, R142: the counters of an HCHK are wrap64(COUNTER - BELOW + i) for 0 <= i < BELOW + ABOVE; the window wraps, its size does not. -/
def Obligations.HotpWindowCounters : Prop :=
  ∀ (counter below above : DWord),
    (hotpWindow counter below above).count = below.toNat + above.toNat
    ∧ ∀ i : Nat, windowCounter (hotpWindow counter below above).base i
        = wrap64 ((counter.toNat : Int) - below.toNat + i)

/-- R144, R145, R146 and spec/90_conflicts.md C1: the counters of a TCHK are exactly those from the clamped start divided by PERIOD to the end, taken modulo 2^64, divided by
PERIOD, both ends included; none if the second is below the first. Where the end does not wrap it is TIMESTAMP + ABOVE. That a wrapped end is
no exception follows R144's pseudocode, R146 and C1 against R203's sentence (log 8, DEDUCED). -/
def Obligations.TotpWindowIsClosedInterval : Prop :=
  ∀ (ts p below above : DWord), p ≠ 0 →
    ∀ c : DWord,
      (∃ i, i < (totpWindow ts p below above).count
          ∧ windowCounter (totpWindow ts p below above).base i = c) ↔
        (ts.toNat - below.toNat) / p.toNat ≤ c.toNat ∧ c.toNat ≤ (ts.toNat + above.toNat) % 2 ^ 64 / p.toNat

/-- R146: with the default period and tolerances the window is the counters c - 1, c, c + 1 for c = TIMESTAMP div 30. -/
def Obligations.TotpDefaultWindowIsThreeCounters : Prop :=
  ∀ ts : DWord, 30 ≤ ts.toNat → ts.toNat + 30 < 2 ^ 64 →
    (totpWindow ts 30 30 30).count = 3
    ∧ ∀ i : Nat, i < 3 →
        (windowCounter (totpWindow ts 30 30 30).base i).toNat + 1 = ts.toNat / 30 + i

/-- R144, R147, and R203 as far as its ground reaches: where the end wraps and its counter falls below the start counter, the TCHK window is empty,
and an accepted TCHK reports MATCH = 0 after one engine step, whatever the candidate. R203 says this of every wrap; R144's pseudocode, R146 and
C1, which the model follows, empty the window in this case only (log 8, DEDUCED). -/
def Obligations.TotpWrappedEndEmptiesTheWindow : Prop :=
  (∀ (ts p below above : DWord), 2 ^ 64 ≤ ts.toNat + above.toNat →
    (ts.toNat + above.toNat - 2 ^ 64) / p.toNat < (ts.toNat - below.toNat) / p.toNat →
    (totpWindow ts p below above).count = 0)
  ∧ ∀ (kh : KeyedHash) (f : CmdFields) (s : State) (alg : HashAlg) (L : Fin 9), s.dev.Accepts .tchk f alg L →
      2 ^ 64 ≤ s.dev.timestamp.toNat + s.dev.above.toNat →
      (s.dev.timestamp.toNat + s.dev.above.toNat - 2 ^ 64) / s.dev.period.toNat
        < (s.dev.timestamp.toNat - s.dev.below.toNat) / s.dev.period.toNat →
      ∃ t, exec (.tchk f) s = .next t ∧ (engineStep kh t.dev).status = s.dev.status.completed false

/-- R140: CHK with START = start mod 2^64 and COUNT = max(0, end - start) evaluates the counters (start + i) mod 2^64 for
0 <= i < end - start; an empty or reversed range has none. -/
def Obligations.CheckRangeOverIntegerBounds : Prop :=
  ∀ (first last : Int), last - first < 2 ^ 64 →
    let w := rangeWindow (wrap64 first) (wrap64 (max 0 (last - first)))
    (w.count : Int) = max 0 (last - first)
    ∧ ∀ i : Nat, windowCounter w.base i = wrap64 (first + i)

/-- R135, R136: an accepted constant-time check stays BUSY through SCAN_N engine steps and completes in the next, with MATCH = 1 exactly
when some counter of its window has the candidate as its code. -/
def Obligations.ConstantTimeCheckCompletes : Prop :=
  ∀ (kh : KeyedHash) (i : Instr) (s : State) (alg : HashAlg) (L : Fin 9), i.op.isGenerate = false →
    s.dev.Accepts i.op i.fields alg L → i.fields.vt = false →
    ∃ t, exec i s = .next t
      ∧ (∀ k, k ≤ (s.dev.window i.op).count → (engineRun kh k t.dev).status = s.dev.status.issued)
      ∧ ∃ m, (engineRun kh ((s.dev.window i.op).count + 1) t.dev).status = s.dev.status.completed m
          ∧ (m = true ↔ ∃ k < (s.dev.window i.op).count,
              matchAt kh alg s.dev.keyBytes s.dev.candBytes (s.dev.window i.op).base L k = true)

/-- R135, R137: an accepted variable-time check whose first match is at index k takes k + 2 engine steps, and one with no match SCAN_N + 1;
it is BUSY until then. -/
def Obligations.VariableTimeCheckCompletes : Prop :=
  ∀ (kh : KeyedHash) (i : Instr) (s : State) (alg : HashAlg) (L : Fin 9), i.op.isGenerate = false →
    s.dev.Accepts i.op i.fields alg L → i.fields.vt = true →
    let hit := matchAt kh alg s.dev.keyBytes s.dev.candBytes (s.dev.window i.op).base L
    ∃ t, exec i s = .next t
      ∧ (∀ k, k < (s.dev.window i.op).count → hit k = true → (∀ j < k, hit j = false) →
          (∀ m, m ≤ k + 1 → (engineRun kh m t.dev).status = s.dev.status.issued)
          ∧ (engineRun kh (k + 2) t.dev).status = s.dev.status.completed true)
      ∧ ((∀ k < (s.dev.window i.op).count, hit k = false) →
          (∀ m, m ≤ (s.dev.window i.op).count → (engineRun kh m t.dev).status = s.dev.status.issued)
          ∧ (engineRun kh ((s.dev.window i.op).count + 1) t.dev).status = s.dev.status.completed false)

/-- R133: the two comparators agree, and a check completes with the same MATCH in both modes over the same operands. -/
def Obligations.ModesGiveTheSameMatch : Prop :=
  (∀ (cand S : List Byte) (L : Nat), L ≤ 8 →
      (matchCt cand S L).equal = (matchVt cand S L).equal ∧ (matchCt cand S L).equal = codeMatches cand S L)
  ∧ ∀ (kh : KeyedHash) (i j : Instr) (s : State) (alg : HashAlg) (L : Fin 9), i.op.isGenerate = false →
      i.op = j.op → i.fields.alg = j.fields.alg → i.fields.vt = false → j.fields.vt = true →
      s.dev.Accepts i.op i.fields alg L →
      ∃ t v m n r, exec i s = .next t ∧ exec j s = .next v
        ∧ (engineRun kh m t.dev).status = s.dev.status.completed r
        ∧ (engineRun kh n v.dev).status = s.dev.status.completed r

/-- R136, R205: the constant-time property. Two constant-time checks with the same SCAN_BASE and SCAN_N, at the same point of the scan, hash
the same counters in the same order, examine 8 lanes each time, and are BUSY for the same engine steps, whatever the key, its length,
the candidate, its length, the algorithm, and even the keyed hash. -/
def Obligations.ConstantTimeRunsLookAlike : Prop :=
  ∀ (kh kh' : KeyedHash) (d e : Device),
    d.status.busy = true → e.status.busy = true →
    d.engine.op.isGenerate = false → e.engine.op.isGenerate = false →
    d.engine.vt = false → e.engine.vt = false →
    d.engine.scanBase = e.engine.scanBase → d.engine.scanN = e.engine.scanN → d.engine.scanI = e.engine.scanI →
    ∀ n, engineTrace kh n d = engineTrace kh' n e
      ∧ (engineRun kh n d).status.busy = (engineRun kh' n e).status.busy
      ∧ ∀ c l, some (c, l) ∈ engineTrace kh n d → l = 8

/-- R136: a constant-time check just issued hashes exactly the counters wrap64(SCAN_BASE + i) for i = 0 .. SCAN_N - 1, in that order, with no
stop at a match, and takes exactly SCAN_N + 1 engine steps. -/
def Obligations.ConstantTimeScanHashesTheWholeWindow : Prop :=
  ∀ (kh : KeyedHash) (d : Device),
    d.status.busy = true → d.engine.op.isGenerate = false → d.engine.vt = false → d.engine.scanI = 0 →
    engineTrace kh (d.engine.scanN + 1) d
      = (List.range d.engine.scanN).map (fun i => some (windowCounter d.engine.scanBase i, 8)) ++ [none]
    ∧ (engineRun kh d.engine.scanN d).status.busy = true
    ∧ (engineRun kh (d.engine.scanN + 1) d).status.busy = false

/-- R147: a check whose window is empty completes with MATCH = 0 in one engine step that hashes nothing. -/
def Obligations.EmptyWindowCompletesAtOnce : Prop :=
  ∀ (kh : KeyedHash) (i : Instr) (s : State) (alg : HashAlg) (L : Fin 9), i.op.isGenerate = false →
    s.dev.Accepts i.op i.fields alg L → (s.dev.window i.op).count = 0 →
    ∃ t, exec i s = .next t
      ∧ t.dev.status = s.dev.status.issued
      ∧ t.dev.observed kh = none
      ∧ (engineStep kh t.dev).status = s.dev.status.completed false

/-- R148: a check with CAND_LEN in 9..15 that no earlier error stops is rejected with INVALID_LENGTH, and one with CAND_LEN = 0 completes
with MATCH = 1 over every non-empty window, whatever the key. -/
def Obligations.CandidateLengthCornerCases : Prop :=
  ∀ (kh : KeyedHash) (i : Instr) (s : State) (alg : HashAlg), i.op.isGenerate = false →
    hashOf i.fields.alg = some alg → s.dev.keyLen.toNat ≤ 128 → (i.op.isTotp = true → s.dev.period ≠ 0) →
    (9 ≤ s.dev.candLen.toNat →
      exec i s = .next (s.withDev { s.dev with status := s.dev.status.rejected .invalidLength }))
    ∧ (s.dev.candLen = 0 → (s.dev.window i.op).count ≠ 0 →
      ∃ t n, exec i s = .next t ∧ (engineRun kh n t.dev).status = s.dev.status.completed true)

/-- R149: at its issue and through any number of engine steps, an accepted check changes no register but STATUS and the result
registers, which read 0, and nothing hidden but the sequencer state. -/
def Obligations.ChecksWriteNoOperandRegister : Prop :=
  ∀ (kh : KeyedHash) (i : Instr) (s : State) (alg : HashAlg) (L : Fin 9), i.op.isGenerate = false →
    s.dev.Accepts i.op i.fields alg L →
    ∃ t, exec i s = .next t ∧ ∀ n, ∃ st e,
      engineRun kh n t.dev = { s.dev with
        status := st
        engine := e
        trunc := 0
        codeVal := 0
        code := Vector.replicate 8 0
        digest := Vector.replicate 64 0 }

/-- R138, R172: what a constant-time check shows of the key. Two states that differ only in the key bytes show the same value at every
offset after every number of engine steps, but for MATCH once the check has completed. -/
def Obligations.ChecksExposeOnlyMatch : Prop :=
  ∀ (kh : KeyedHash) (i : Instr) (s : State) (key : Vector Byte 128) (alg : HashAlg) (L : Fin 9),
    i.op.isGenerate = false → i.fields.vt = false → s.dev.Accepts i.op i.fields alg L →
    ∃ t v, exec i s = .next t ∧ exec i (s.withDev { s.dev with key := key }) = .next v
      ∧ ∀ n, (∀ off bytes, off ≠ 0x008 →
            busRead (engineRun kh n t.dev) off bytes = busRead (engineRun kh n v.dev) off bytes)
          ∧ ∃ m, (engineRun kh n v.dev).status = { (engineRun kh n t.dev).status with matched := m }
              ∧ (n ≤ (s.dev.window i.op).count → m = (engineRun kh n t.dev).status.matched)

/-! ## Registers and the bus (spec/10_state.md, spec/20_memory.md) -/

/-- R21, R66: every register stands at the offset the map lists, HI at LO + 4, and is found there, word-aligned and inside the aperture; and what the
numeric registers read as: ID its constant (R22), the LO and HI halves of the 64-bit operands, and KEYLEN, CAND_LEN, TRUNC and CODE_VAL zero-extended (R34, R40, R42, R43). -/
def Obligations.RegisterMapFindsEveryRegister : Prop :=
  (∀ r : Reg, regAt r.offset = some r ∧ r.offset % 4 = 0 ∧ r.offset < 4096)
  ∧ (Reg.id.offset = 0x000 ∧ Reg.ctrl.offset = 0x004 ∧ Reg.status.offset = 0x008 ∧ Reg.cmd.offset = 0x00C
    ∧ Reg.keyLen.offset = 0x010 ∧ Reg.candLen.offset = 0x050 ∧ Reg.trunc.offset = 0x060 ∧ Reg.codeVal.offset = 0x064)
  ∧ ((Reg.lo .counter).offset = 0x018 ∧ (Reg.lo .timestamp).offset = 0x020 ∧ (Reg.lo .period).offset = 0x028
    ∧ (Reg.lo .below).offset = 0x030 ∧ (Reg.lo .above).offset = 0x038 ∧ (Reg.lo .start).offset = 0x040
    ∧ (Reg.lo .count).offset = 0x048 ∧ ∀ o, (Reg.hi o).offset = (Reg.lo o).offset + 4)
  ∧ (∀ k : Fin 2, (Reg.cand k).offset = 0x054 + 4 * k ∧ (Reg.code k).offset = 0x068 + 4 * k)
  ∧ (∀ k : Fin 16, (Reg.digest k).offset = 0x100 + 4 * k)
  ∧ (∀ k : Fin 32, (Reg.key k).offset = 0x200 + 4 * k)
  ∧ ∀ d : Device,
      busRead d 0x000 4 = .data 0x4F545047#32
      ∧ busRead d 0x00C 4 = .data d.cmd ∧ busRead d 0x010 4 = .data (0#24 ++ d.keyLen)
      ∧ busRead d 0x018 4 = .data (d.counter.setWidth 32) ∧ busRead d 0x01C 4 = .data (d.counter.extractLsb' 32 32)
      ∧ busRead d 0x020 4 = .data (d.timestamp.setWidth 32) ∧ busRead d 0x024 4 = .data (d.timestamp.extractLsb' 32 32)
      ∧ busRead d 0x028 4 = .data (d.period.setWidth 32) ∧ busRead d 0x02C 4 = .data (d.period.extractLsb' 32 32)
      ∧ busRead d 0x030 4 = .data (d.below.setWidth 32) ∧ busRead d 0x034 4 = .data (d.below.extractLsb' 32 32)
      ∧ busRead d 0x038 4 = .data (d.above.setWidth 32) ∧ busRead d 0x03C 4 = .data (d.above.extractLsb' 32 32)
      ∧ busRead d 0x040 4 = .data (d.start.setWidth 32) ∧ busRead d 0x044 4 = .data (d.start.extractLsb' 32 32)
      ∧ busRead d 0x048 4 = .data (d.count.setWidth 32) ∧ busRead d 0x04C 4 = .data (d.count.extractLsb' 32 32)
      ∧ busRead d 0x050 4 = .data (0#28 ++ d.candLen)
      ∧ busRead d 0x060 4 = .data (0#1 ++ d.trunc) ∧ busRead d 0x064 4 = .data (0#5 ++ d.codeVal)

/-- R33, R172: no read reveals the key. Devices that differ only in KEY answer every read alike, and KEY_k reads 0. -/
def Obligations.KeyIsNeverReadBack : Prop :=
  ∀ (d : Device) (key : Vector Byte 128),
    (∀ off bytes, busRead { d with key := key } off bytes = busRead d off bytes)
    ∧ ∀ k : Fin 32, busRead d (0x200 + 4 * k) 4 = .data 0

/-- R33, R41, R44, R45, R65: the packing of byte strings. A write to KEY_k stores the word's bytes, the most significant at the lowest index, and no
other byte of the key changes; on the bus, with BUSY = 0, a write at 0x200 + 4k or 0x054 + 4k does so to KEY or CAND and changes nothing else of
OTPG. Byte j of CAND, CODE and DIGEST reads back in word j div 4, at bits (31 - 8(j mod 4)) to (24 - 8(j mod 4)). -/
def Obligations.KeyWriteStoresBigEndian : Prop :=
  (∀ (d : Device) (k : Fin 32) (w : Word) (j : Fin 128),
    (d.writeReg (.key k) w).key[j] =
      if j.val / 4 = k.val then w.extractLsb' (24 - 8 * (j.val % 4)) 8 else d.key[j])
  ∧ (∀ (s : State) (k : Fin 32) (w : Word), s.dev.status.busy = false →
    ∃ t, busWrite (0x200 + 4 * k) 4 w s = .next t ∧ t.dev = { s.dev with key := t.dev.key }
      ∧ ∀ j : Fin 128, t.dev.key[j] =
          if j.val / 4 = k.val then w.extractLsb' (24 - 8 * (j.val % 4)) 8 else s.dev.key[j])
  ∧ (∀ (s : State) (k : Fin 2) (w : Word), s.dev.status.busy = false →
    ∃ t, busWrite (0x054 + 4 * k) 4 w s = .next t ∧ t.dev = { s.dev with cand := t.dev.cand }
      ∧ ∀ j : Fin 8, t.dev.cand[j] =
          if j.val / 4 = k.val then w.extractLsb' (24 - 8 * (j.val % 4)) 8 else s.dev.cand[j])
  ∧ ∀ d : Device,
      (∀ j : Fin 8, ∃ w, busRead d (0x054 + 4 * (j.val / 4)) 4 = .data w
        ∧ w.extractLsb' (24 - 8 * (j.val % 4)) 8 = d.cand[j])
      ∧ (∀ j : Fin 8, ∃ w, busRead d (0x068 + 4 * (j.val / 4)) 4 = .data w
        ∧ w.extractLsb' (24 - 8 * (j.val % 4)) 8 = d.code[j])
      ∧ ∀ j : Fin 64, ∃ w, busRead d (0x100 + 4 * (j.val / 4)) 4 = .data w
        ∧ w.extractLsb' (24 - 8 * (j.val % 4)) 8 = d.digest[j]

/-- R62, R34, R40, R41, R66: while BUSY = 0, a write to an operand register other than CMD and KEY_k reads back as written (KEYLEN and
CAND_LEN their low bits), and leaves every other register reading as before, the hidden state as it was and, unless it is a write to KEY_k, every
key byte as it was. That the write is acknowledged is the model's choice (log 5). -/
def Obligations.OperandWriteReadsBack : Prop :=
  ∀ (s : State) (r : Reg) (v : Word), s.dev.status.busy = false → r.isOperand = true → r ≠ .cmd →
    ∃ t, busWrite r.offset 4 v s = .next t
      ∧ t.responses = .ack :: s.responses
      ∧ t.dev.readReg r =
          (match r with
           | .keyLen => v &&& 0xFF#32
           | .candLen => v &&& 0xF#32
           | .key _ => 0
           | _ => v)
      ∧ (∀ r', r' ≠ r → t.dev.readReg r' = s.dev.readReg r')
      ∧ t.dev.engine = s.dev.engine
      ∧ ((∀ k, r ≠ .key k) → t.dev.key = s.dev.key)

/-- R63: an access of another width, at an offset that is no multiple of 4 or outside the aperture, changes nothing of OTPG and is answered
by a bus error. That responses are listed latest first is the model's choice (log 5). -/
def Obligations.IllegalAccessChangesNothing : Prop :=
  ∀ (s : State) (off bytes : Nat) (v : Word) (rest : List HostAction),
    s.nextTurn = .host → (bytes ≠ 4 ∨ off % 4 ≠ 0 ∨ 4096 ≤ off) →
    s.pending = .wr off bytes v :: rest ∨ s.pending = .rd off bytes :: rest →
    step s = .next
      { dev := s.dev, pending := rest, turns := s.turns.tail, responses := .busError :: s.responses }

/-- R64, R21, R22: a legal read of a reserved offset returns 0 and a legal write to one is ignored; and a legal write to a read-only register (ID,
TRUNC, CODE_VAL, CODE_k, DIGEST_k) is ignored, whether or not BUSY = 1. None of these is a bus error. -/
def Obligations.ReservedOffsetReadsZeroIgnoresWrites : Prop :=
  ∀ (s : State) (off : Nat) (v : Word), off % 4 = 0 →
    ((off = 0x014 ∨ off = 0x05C ∨ (0x070 ≤ off ∧ off ≤ 0x0FC) ∨ (0x140 ≤ off ∧ off ≤ 0x1FC)
      ∨ (0x280 ≤ off ∧ off ≤ 0xFFC)) →
      busRead s.dev off 4 = .data 0 ∧ ∃ r, r ≠ .busError ∧ busWrite off 4 v s = .next (s.respond r))
    ∧ ((off = 0x000 ∨ (0x060 ≤ off ∧ off ≤ 0x06C) ∨ (0x100 ≤ off ∧ off ≤ 0x13C)) →
      ∃ r, r ≠ .busError ∧ busWrite off 4 v s = .next (s.respond r))

/-- R62, R68: a read, of any offset and width, leaves all of OTPG's state unchanged, and the response the host gets is what `busRead` answers at that
offset. That responses are listed latest first is the model's choice (log 5). -/
def Obligations.ReadsHaveNoSideEffect : Prop :=
  ∀ (s : State) (off bytes : Nat) (rest : List HostAction),
    s.nextTurn = .host → s.pending = .rd off bytes :: rest →
    step s = .next
      { dev := s.dev, pending := rest, turns := s.turns.tail, responses := busRead s.dev off bytes :: s.responses }

/-- R67, R167, R23, R24: while BUSY = 1 a legal write to an operand register, CMD among them, changes nothing but WIGN, which it sets. Writes to
CTRL and STATUS are honoured whether or not BUSY = 1, and CTRL reads IE in bit 1 and 0 elsewhere. That each of these writes, the ignored ones
too, is answered by an acknowledgement is the model's choice (log 5). -/
def Obligations.BusyOperandWriteOnlySetsWign : Prop :=
  ∀ (s : State) (off : Nat) (v : Word), off % 4 = 0 →
    (s.dev.status.busy = true →
      (off = 0x00C ∨ off = 0x010 ∨ (0x018 ≤ off ∧ off ≤ 0x058) ∨ (0x200 ≤ off ∧ off ≤ 0x27C)) →
      busWrite off 4 v s = .next ((s.respond .ack).withDev
        { s.dev with status := { s.dev.status with wign := true } }))
    ∧ busWrite 0x004 4 v s = .next ((s.respond .ack).withDev
        (if v.getLsbD 0 then Device.reset else { s.dev with ie := v.getLsbD 1 }))
    ∧ busWrite 0x008 4 v s = .next ((s.respond .ack).withDev (s.dev.clearStatus v))
    ∧ busRead s.dev 0x004 4 = .data (0#30 ++ BitVec.ofBool s.dev.ie ++ 0#1)

/-- R26, R161: STATUS reads as the rule's table lays it out, its reserved bits 0, and ERRCODE holds the numbers of R161. -/
def Obligations.StatusWordLayout : Prop :=
  (∀ (d : Device),
    busRead d 0x008 4 = .data d.status.word
    ∧ d.status.word.getLsbD 0 = d.status.busy ∧ d.status.word.getLsbD 1 = d.status.done
    ∧ d.status.word.getLsbD 2 = d.status.err ∧ d.status.word.getLsbD 3 = d.status.matched
    ∧ d.status.word.getLsbD 4 = d.status.wign
    ∧ d.status.word.extractLsb' 5 3 = 0
    ∧ d.status.word.extractLsb' 8 4 =
        (match d.status.errcode with
         | .none => 0
         | .invalidLength => 1
         | .invalidAlgorithm => 2
         | .invalidCommand => 3
         | .invalidPeriod => 4
         | .invalidKeylen => 5)
    ∧ d.status.word.extractLsb' 12 20 = 0)
  ∧ ∀ d : Device, d.status.word.extractLsb' 8 4 = d.status.errcode.code

/-- R26: a write to STATUS clears DONE, ERR with ERRCODE, and WIGN where bits 1, 2 and 4 of the written value are 1, ignores every other
bit, and changes no other register. -/
def Obligations.StatusWriteOneToClear : Prop :=
  ∀ (s : State) (v : Word), ∃ t, busWrite 0x008 4 v s = .next t
    ∧ t.dev = { s.dev with status := t.dev.status }
    ∧ t.dev.status.word = s.dev.status.word &&& ~~~(v &&& 0x16#32)
        &&& (if v.getLsbD 2 then 0xFFFFF0FF#32 else 0xFFFFFFFF#32)

/-- R52, R169, R170: IRQ is IE and (DONE or ERR); a STATUS write with bits 1 and 2 set and an accepted issue drop it; a rejected issue
raises it exactly when IE = 1. -/
def Obligations.IrqFollowsDoneAndErr : Prop :=
  (∀ d : Device, d.irq = (d.ie && (d.status.done || d.status.err)))
  ∧ (∀ (d : Device) (v : Word), v.getLsbD 1 = true → v.getLsbD 2 = true → (d.clearStatus v).irq = false)
  ∧ ∀ (w : Word) (s : State), ∃ t, issueWord w s = .next t ∧ t.dev.irq = (s.dev.ie && t.dev.status.err)

/-- R66, R93: `WR64 NAME, v` on an idle OTPG leaves the operand at `v`, written LO half first. That the host moves next
where no turn is listed and BUSY = 0 is the model's choice of schedule (log 4). -/
def Obligations.Wr64LoadsTheOperand : Prop :=
  ∀ (s : State) (o : Operand64) (v : DWord), s.dev.status.busy = false → s.turns = [] → s.pending = asmWr64 o v →
    ∃ t u, step s = .next t ∧ step t = .next u ∧ u.pending = []
      ∧ u.dev = s.dev.setOperand o v ∧ u.dev.operand o = v

/-! ## The engine (spec/10_state.md R27, R35, R47) -/

/-- R33, R35, R47: no engine step writes an operand register, CMD or IE, but for COUNTER when a GEN with AINC = 1 completes. -/
def Obligations.EngineWritesNoOperandButCounter : Prop :=
  ∀ (kh : KeyedHash) (d : Device),
    (∃ st e c tr cv co di, engineStep kh d =
        { d with status := st, engine := e, counter := c, trunc := tr, codeVal := cv, code := co, digest := di })
    ∧ ((engineStep kh d).counter ≠ d.counter →
        d.status.busy = true ∧ d.engine.op = .gen ∧ d.engine.ainc = true
          ∧ (engineStep kh d).counter = wrap64 (d.engine.ctr.toNat + 1))

/-- R71: nothing but the engine step of a GEN or TGEN, the issue of a check, or a reset changes a result register. -/
def Obligations.ResultRegistersChangeOnlyBy : Prop :=
  ∀ (s t : State), step s = .next t →
    (t.dev.trunc, t.dev.codeVal, t.dev.code, t.dev.digest) ≠ (s.dev.trunc, s.dev.codeVal, s.dev.code, s.dev.digest) →
    (s.nextTurn = .engine ∧ s.dev.status.busy = true ∧ s.dev.engine.op.isGenerate = true)
    ∨ (s.nextTurn = .host ∧ s.dev.status.busy = false ∧ ∃ w rest i, s.pending = .wr 0x00C 4 w :: rest
        ∧ decode w = .instr i ∧ i.op.isGenerate = false)
    ∨ s.nextTurn = .reset
    ∨ (s.nextTurn = .host ∧ ∃ v rest, s.pending = .wr 0x004 4 v :: rest ∧ v.getLsbD 0 = true)

/-! ## Reset (spec/70_reset_and_hazards.md) -/

/-- R190: after reset every offset of the aperture reads 0 but ID and PERIOD_LO, which reads 30; the hidden state is as the rule's table
says, IRQ is deasserted, the engine is idle and KEY is zero. -/
def Obligations.ResetStateReadsAsTheSpecSays : Prop :=
  (∀ off, off % 4 = 0 → off < 4096 → busRead State.reset.dev off 4 =
      .data (if off = 0x000 then 0x4F545047#32 else if off = 0x028 then 30#32 else 0#32))
  ∧ State.reset.dev.key = Vector.replicate 128 0
  ∧ State.reset.dev.engine =
      { op := .gen, alg := .sha1, vt := false, ainc := false, len := 0, ctr := 0, scanBase := 0, scanN := 0, scanI := 0,
        acc := false }
  ∧ State.reset.dev.irq = false ∧ State.reset.dev.status.busy = false

/-- R191, R192, R193: a write of CTRL with bit 0 set is, whatever its other bits and whether or not BUSY = 1, exactly what a turn of the
reset input is: OTPG in its reset state, where no later engine step does anything. That the
write is acknowledged is log 5's choice, and that a reset leaves the host's actions, turns and responses is log 3's. -/
def Obligations.SoftResetIsHardwareReset : Prop :=
  ∀ (kh : KeyedHash) (s : State) (v : Word), v.getLsbD 0 = true →
    busWrite 0x004 4 v s = .next ((s.respond .ack).withDev Device.reset)
    ∧ runTurn kh .reset s = .next (s.withDev Device.reset)
    ∧ ∀ n, engineRun kh n Device.reset = Device.reset

/-- R20, R27, R62, R70, R93, R191: whose step it is and what each step is. The listed turn comes next; with none listed the engine moves while BUSY = 1 and
the host otherwise (the model's choice of schedule, log 4). A step whose turn is the engine's is one engine step under the machine's keyed hash,
and changes nothing but OTPG and the turn; one whose turn is the reset input's leaves OTPG in its reset state and the host's actions and responses
as they were (log 3); one whose turn is the host's and whose next action is a write is `busWrite` of it, and a POLL is a read of STATUS that
stays the next action while BUSY = 1 (log 9; responses latest first, log 5). While BUSY = 0 the engine has no step, and with no host action left OTPG waits. -/
def Obligations.IdleMachineWaits : Prop :=
  (∀ (kh : KeyedHash) (d : Device), d.status.busy = false → ∀ n, engineRun kh n d = d)
  ∧ (∀ s : State, s.dev.status.busy = false → s.pending = [] → s.turns = [] → step s = .next s)
  ∧ (∀ (s : State) (t : Turn) (ts : List Turn), s.turns = t :: ts → s.nextTurn = t)
  ∧ (∀ s : State, s.turns = [] → s.nextTurn = if s.dev.status.busy then .engine else .host)
  ∧ (∀ s : State, s.nextTurn = .engine →
      step s = .next { dev := engineStep Config.kh s.dev, pending := s.pending, turns := s.turns.tail,
                       responses := s.responses })
  ∧ (∀ s : State, s.nextTurn = .reset →
      step s = .next { dev := Device.reset, pending := s.pending, turns := s.turns.tail, responses := s.responses })
  ∧ (∀ (s : State) (off bytes : Nat) (v : Word) (rest : List HostAction),
      s.nextTurn = .host → s.pending = .wr off bytes v :: rest →
      step s = busWrite off bytes v { dev := s.dev, pending := rest, turns := s.turns.tail, responses := s.responses })
  ∧ ∀ (s : State) (rest : List HostAction), s.nextTurn = .host → s.pending = .poll :: rest →
      step s = .next { dev := s.dev, pending := if s.dev.status.busy then s.pending else rest, turns := s.turns.tail,
                       responses := busRead s.dev 0x008 4 :: s.responses }

/-! ## Whole-machine rules -/

/-- R160, R178: OTPG raises no traps: every step, from every state, answers a next state. -/
def Obligations.EveryStepIsSafe : Prop := ∀ s : State, SafeStep s

/-- R190: the three invariants below hold after reset. -/
def Obligations.InvariantsHoldAtReset : Prop :=
  State.reset.dev.Inv ∧ State.reset.dev.Held ∧ ∀ kh, State.reset.dev.ScanRight kh

/-- R28, R29, R30, R43, R46: DONE and ERR are never both 1, ERRCODE = 0 exactly while ERR = 0, the flags stay cleared while BUSY = 1, SCAN_I never passes
SCAN_N, which is below 2^65, and CODE_VAL stays below 10^8: every step, of the host, the engine or the reset input, keeps it so. -/
def Obligations.InvariantKeptByEveryStep : Prop :=
  ∀ (s t : State), s.dev.Inv → step s = .next t → t.dev.Inv

/-- R67, R73, R74: while a command runs, the hidden state stays what the issue of the word in CMD makes of the operand registers, and a step from
BUSY = 1 to BUSY = 1 leaves every operand register, CMD and every byte of KEY and CAND as they were, whatever the host does. -/
def Obligations.RunningCommandHeldByEveryStep : Prop :=
  (∀ (s t : State), s.dev.Held → step s = .next t → t.dev.Held)
  ∧ ∀ (s t : State), step s = .next t → s.dev.status.busy = true → t.dev.status.busy = true →
      t.dev.cmd = s.dev.cmd ∧ t.dev.keyLen = s.dev.keyLen ∧ t.dev.key = s.dev.key
      ∧ t.dev.candLen = s.dev.candLen ∧ t.dev.cand = s.dev.cand
      ∧ t.dev.counter = s.dev.counter ∧ t.dev.timestamp = s.dev.timestamp ∧ t.dev.period = s.dev.period
      ∧ t.dev.below = s.dev.below ∧ t.dev.above = s.dev.above
      ∧ t.dev.start = s.dev.start ∧ t.dev.count = s.dev.count

/-- R134, R135, R138: while a check runs, ACC says exactly whether a counter evaluated so far has the candidate as its code, and the result registers
stay zero, whatever the host does. -/
def Obligations.ScanAccumulatorRightAfterEveryStep : Prop :=
  ∀ (s t : State), s.dev.ScanRight Config.kh → step s = .next t → t.dev.ScanRight Config.kh

/-- R160, R200: an accepted command always completes: from any state in which one runs, within SCAN_N - SCAN_I + 1 engine steps BUSY is 0 and DONE
is 1. -/
def Obligations.AcceptedCommandCompletes : Prop :=
  ∀ (kh : KeyedHash) (d : Device), d.Inv → d.status.busy = true →
    ∃ n, n ≤ d.engine.scanN - d.engine.scanI + 1
      ∧ ∃ m, (engineRun kh n d).status = d.status.completed m
end

