-- ==== Sys2Proof/Laws/Encoding.lean ====
section
/-! SUPPORT. What the decoder and the encoder do, field by field. -/

namespace Sys2Proof

@[simp] theorem algSelOfBits_bits (a : AlgSel) : algSelOfBits a.bits = a := by cases a <;> rfl

@[simp] theorem bits_algSelOfBits (b : BitVec 2) : (algSelOfBits b).bits = b := by
  revert b; decide

theorem algSelOfBits_eq_reserved (b : BitVec 2) : algSelOfBits b = .reserved ↔ b = 3 := by
  revert b; decide

theorem CmdFields.algLegal_iff (f : CmdFields) : f.algLegal = true ↔ f.alg ≠ .reserved := decide_eq_true_iff

theorem CmdFields.lenLegal_iff (f : CmdFields) : f.lenLegal = true ↔ f.len.toNat ≤ 8 := decide_eq_true_iff

/-- Which opcodes the operations have. -/
theorem Op.opc_toNat (o : Op) :
    o.opc.toNat = match o with | .gen => 1 | .chk => 2 | .hchk => 3 | .tgen => 4 | .tchk => 5 := by
  cases o <;> rfl

/-- The decoder on a word with no reserved bit set, by opcode. -/
theorem decode_of_rsv_zero {w : Word} (h : w.extractLsb' 12 20 = 0) :
    decode w = match (w.extractLsb' 0 4).toNat with
      | 0x1 => .instr (.gen (fieldsOfWord w))
      | 0x2 => .instr (.chk (fieldsOfWord w))
      | 0x3 => .instr (.hchk (fieldsOfWord w))
      | 0x4 => .instr (.tgen (fieldsOfWord w))
      | 0x5 => .instr (.tchk (fieldsOfWord w))
      | _ => .rejected .reservedOpcode :=
  if_neg (not_not_intro h)

/-- The decoder on a word with a reserved bit set. -/
theorem decode_of_rsv_ne_zero {w : Word} (h : w.extractLsb' 12 20 ≠ 0) :
    decode w = .rejected .reservedBits :=
  if_pos h

/-- Everything a word that decodes says of its instruction: no reserved bit, the operation's opcode, the fields. -/
theorem decode_instr {w : Word} {i : Instr} (h : decode w = .instr i) :
    w.extractLsb' 12 20 = 0 ∧ w.extractLsb' 0 4 = i.op.opc ∧ i.fields = fieldsOfWord w := by
  by_cases hr : w.extractLsb' 12 20 = 0
  · rw [decode_of_rsv_zero hr] at h
    refine ⟨hr, ?_⟩
    split at h <;> cases h <;> refine ⟨BitVec.eq_of_toNat_eq ?_, rfl⟩ <;> assumption
  · rw [decode_of_rsv_ne_zero hr] at h
    cases h

/-- The opcodes that decode, and nothing else, decode. -/
theorem decode_eq_rejected_iff (w : Word) :
    (∃ r, decode w = .rejected r) ↔
      w.extractLsb' 12 20 ≠ 0 ∨ (w.extractLsb' 0 4).toNat ∉ [1, 2, 3, 4, 5] := by
  by_cases hr : w.extractLsb' 12 20 = 0
  · rw [decode_of_rsv_zero hr]
    generalize (w.extractLsb' 0 4).toNat = o
    split <;> simp_all
  · rw [decode_of_rsv_ne_zero hr]
    exact ⟨fun _ => .inl hr, fun _ => ⟨_, rfl⟩⟩

/-- An operation's opcode is one of the five that decode, and decodes to it. -/
theorem decode_of_opc {w : Word} (i : Instr) (hr : w.extractLsb' 12 20 = 0) (ho : w.extractLsb' 0 4 = i.op.opc)
    (hf : fieldsOfWord w = i.fields) : decode w = .instr i := by
  rw [decode_of_rsv_zero hr, ho, hf]
  cases i <;> rfl

/-- The word an encoding is, as one concatenation: RSV, LEN, AINC, VT, ALG, OPC (rule R81). -/
theorem encode_eq_append (i : Instr) :
    encode i = 0#20 ++ i.fields.len ++ BitVec.ofBool i.fields.ainc ++ BitVec.ofBool i.fields.vt
      ++ i.fields.alg.bits ++ i.op.opc := by
  refine BitVec.eq_of_getLsbD_eq fun k hk => ?_
  simp only [encode, BitVec.getLsbD_append, BitVec.getLsbD_or, BitVec.getLsbD_shiftLeft, BitVec.getLsbD_setWidth,
    BitVec.getLsbD_ofBool]
  interval_cases k <;> simp

/-- A word with no reserved bit is the concatenation of its own fields. -/
theorem word_eq_append {w : Word} (h : w.extractLsb' 12 20 = 0) :
    w = 0#20 ++ w.extractLsb' 8 4 ++ BitVec.ofBool (w.getLsbD 7) ++ BitVec.ofBool (w.getLsbD 6)
      ++ w.extractLsb' 4 2 ++ w.extractLsb' 0 4 := by
  rw [show 0#20 = w.extractLsb' 12 20 from h.symm]
  refine BitVec.eq_of_getLsbD_eq fun k hk => ?_
  simp only [BitVec.getLsbD_append, BitVec.getLsbD_extractLsb', BitVec.getLsbD_ofBool]
  interval_cases k <;> simp

/-- Reading each field of such a concatenation. -/
theorem fields_of_append (l : BitVec 4) (n v : Bool) (a : BitVec 2) (o : BitVec 4) {w : Word}
    (h : w = 0#20 ++ l ++ BitVec.ofBool n ++ BitVec.ofBool v ++ a ++ o) :
    w.extractLsb' 12 20 = 0 ∧ w.extractLsb' 8 4 = l ∧ w.getLsbD 7 = n ∧ w.getLsbD 6 = v
      ∧ w.extractLsb' 4 2 = a ∧ w.extractLsb' 0 4 = o := by
  have hb : ∀ k, w.getLsbD k = _ := fun k => congrArg (BitVec.getLsbD · k) h
  simp only [BitVec.getLsbD_append, BitVec.getLsbD_ofBool] at hb
  refine ⟨?_, ?_, by simpa using hb 7, by simpa using hb 6, ?_, ?_⟩
  all_goals
    refine BitVec.eq_of_getLsbD_eq fun k hk => ?_
    rw [BitVec.getLsbD_extractLsb', hb]
    interval_cases k <;> simp

/-- The fields of an encoding, read back bit by bit. -/
theorem encode_fields (i : Instr) :
    (encode i).extractLsb' 12 20 = 0 ∧ (encode i).extractLsb' 0 4 = i.op.opc ∧ fieldsOfWord (encode i) = i.fields := by
  obtain ⟨hr, hl, hn, hv, ha, ho⟩ := fields_of_append _ _ _ _ _ (encode_eq_append i)
  refine ⟨hr, ho, ?_⟩
  simp only [fieldsOfWord, hl, hn, hv, ha, algSelOfBits_bits]

/-- The mask and match of an opcode-table row say that RSV is 0 and OPC is the row's. -/
theorem opcode_mask_iff (w : Word) (o : BitVec 4) :
    w &&& 0xFFFFF00F#32 = o.setWidth 32 ↔
      w.extractLsb' 12 20 = 0 ∧ w.extractLsb' 0 4 = o := by
  constructor
  · intro h
    have hb := fun k => congrArg (fun x : Word => x.getLsbD k) h
    simp only [BitVec.getLsbD_and, BitVec.getLsbD_setWidth] at hb
    constructor
    · refine BitVec.eq_of_getLsbD_eq fun k hk => ?_
      have := hb (12 + k)
      rw [BitVec.getLsbD_extractLsb']
      interval_cases k <;> simpa using this
    · refine BitVec.eq_of_getLsbD_eq fun k hk => ?_
      have := hb k
      rw [BitVec.getLsbD_extractLsb']
      interval_cases k <;> simpa using this
  · rintro ⟨h1, rfl⟩
    have hb := fun k => congrArg (fun x : BitVec 20 => x.getLsbD k) h1
    simp only [BitVec.getLsbD_extractLsb'] at hb
    refine BitVec.eq_of_getLsbD_eq fun k hk => ?_
    simp only [BitVec.getLsbD_and, BitVec.getLsbD_setWidth, BitVec.getLsbD_extractLsb']
    have := hb (k - 12)
    interval_cases k <;> simp_all

end Sys2Proof
end

