-- ==== Sys2Proof/Laws/Comparator.lean ====
section
/-! SUPPORT. Both comparators compute `match`; how many lanes each examines. -/

namespace Sys2Proof.Machine

/-- Two bytes differ in no bit exactly when they are equal. -/
theorem xor_eq_zero (a b : Byte) : a ^^^ b = 0 ↔ a = b := by
  simp

theorem or_eq_zero (a b : Byte) : a ||| b = 0 ↔ a = 0 ∧ b = 0 := by
  simp

@[simp] theorem ctScan_lanes (cand S : List Byte) (L : Nat) (is : List Nat) (diff : Byte) (n : Nat) :
    (ctScan cand S L is diff n).lanes = n + is.length := by
  induction is generalizing diff n with
  | nil => rfl
  | cons i is ih => rw [ctScan, ih, List.length_cons]; omega

/-- The constant-time loop answers 1 exactly when no difference was gathered and no lane differs. -/
theorem ctScan_equal (cand S : List Byte) (L : Nat) (is : List Nat) (diff : Byte) (n : Nat) :
    (ctScan cand S L is diff n).equal = true ↔ diff = 0 ∧ ∀ i ∈ is, ctLane cand S L i = 0 := by
  induction is generalizing diff n with
  | nil => simp [ctScan]
  | cons i is ih => rw [ctScan, ih, or_eq_zero, List.forall_mem_cons, and_assoc]

theorem ctLane_eq_zero (cand S : List Byte) (L i : Nat) :
    ctLane cand S L i = 0 ↔ (i < L → byteAt cand i = byteAt S i) := by
  unfold ctLane
  split <;> simp_all

theorem codeMatches_iff (cand S : List Byte) (L : Nat) :
    codeMatches cand S L = true ↔ ∀ i < L, byteAt cand i = byteAt S i := by
  simp [codeMatches]

/-- The constant-time comparator computes `match` on every code length (rules R131, R133). -/
theorem matchCt_equal (cand S : List Byte) (L : Nat) (h : L ≤ 8) :
    (matchCt cand S L).equal = codeMatches cand S L := by
  rw [Bool.eq_iff_iff, matchCt, ctScan_equal, codeMatches_iff]
  simp only [ctLane_eq_zero, List.mem_range, true_and]
  exact ⟨fun H i hi => H i (by omega) hi, fun H i _ hi => H i hi⟩

@[simp] theorem matchCt_lanes (cand S : List Byte) (L : Nat) : (matchCt cand S L).lanes = 8 := by
  simp [matchCt]

/-- The variable-time loop answers 1 exactly when no listed byte differs. -/
theorem vtScan_equal (cand S : List Byte) (is : List Nat) (n : Nat) :
    (vtScan cand S is n).equal = true ↔ ∀ i ∈ is, byteAt cand i = byteAt S i := by
  induction is generalizing n with
  | nil => simp [vtScan]
  | cons i is ih =>
    rw [vtScan, List.forall_mem_cons]
    split
    · simp_all
    · rw [ih]; simp_all

theorem vtScan_lanes_le (cand S : List Byte) (is : List Nat) (n : Nat) :
    (vtScan cand S is n).lanes ≤ n + is.length := by
  induction is generalizing n with
  | nil => exact Nat.le_refl _
  | cons i is ih =>
    rw [vtScan, List.length_cons]
    split
    · show n + 1 ≤ _
      omega
    · exact (ih _).trans (by omega)

/-- The variable-time comparator computes `match` (rules R132, R133). -/
theorem matchVt_equal (cand S : List Byte) (L : Nat) : (matchVt cand S L).equal = codeMatches cand S L := by
  rw [Bool.eq_iff_iff, matchVt, vtScan_equal, codeMatches_iff]
  simp only [List.mem_range]

theorem matchVt_lanes_le (cand S : List Byte) (L : Nat) : (matchVt cand S L).lanes ≤ L := by
  simpa [matchVt] using vtScan_lanes_le cand S (List.range L) 0

end Sys2Proof.Machine
end

