-- ==== Sys2Proof/Laws/Bytes.lean ====
section
/-! SUPPORT. The byte-string notation: wrapping, big-endian and decimal strings, and the packing of buffers in registers. -/

namespace Sys2Proof.Machine

/-! ## wrap64 -/

theorem wrap64_toNat (v : Int) : (wrap64 v).toNat = (v % 2 ^ 64).toNat := by
  simp [wrap64, BitVec.toNat_ofInt]

@[simp] theorem wrap64_of_toNat (d : DWord) : wrap64 d.toNat = d := by
  simp [wrap64]

/-- Wrapping twice is wrapping once. -/
theorem wrap64_add (a b : Int) : wrap64 ((wrap64 a).toNat + b) = wrap64 (a + b) := by
  apply BitVec.eq_of_toNat_eq
  simp only [wrap64_toNat]
  omega

theorem wrap64_add_one (d : DWord) : wrap64 (d.toNat + 1) = d + 1 := by
  apply BitVec.eq_of_toNat_eq
  rw [wrap64_toNat, BitVec.toNat_add]
  simp
  omega

/-- A natural below 2^64 does not wrap. -/
theorem wrap64_toNat_of_lt {n : Nat} (h : n < 2 ^ 64) : (wrap64 n).toNat = n := by
  rw [wrap64_toNat]
  omega

/-! ## The halves of a 64-bit operand (rule R66) -/

theorem append_setWidth (hi lo : Word) : (hi ++ lo : DWord).setWidth 32 = lo := by
  refine BitVec.eq_of_getLsbD_eq fun k hk => ?_
  simp only [BitVec.getLsbD_setWidth, BitVec.getLsbD_append]
  simp [hk]

theorem append_extractLsb' (hi lo : Word) : (hi ++ lo : DWord).extractLsb' 32 32 = hi := by
  refine BitVec.eq_of_getLsbD_eq fun k hk => ?_
  simp only [BitVec.getLsbD_extractLsb', BitVec.getLsbD_append]
  simp [hk]

theorem halves_append (v : DWord) : v.extractLsb' 32 32 ++ v.setWidth 32 = v := by
  refine BitVec.eq_of_getLsbD_eq fun k hk => ?_
  simp only [BitVec.getLsbD_append, BitVec.getLsbD_extractLsb', BitVec.getLsbD_setWidth]
  split
  · simp [*]
  · simp [show k - 32 < 32 by omega, show 32 + (k - 32) = k by omega]

/-! ## Positional strings -/

/-- The base-`b` digits of a number, folded back, give the number modulo `b^n`. -/
theorem foldl_positional (b : Nat) (n v : Nat) :
    ((List.range n).map fun i => v / b ^ (n - 1 - i) % b).foldl (fun acc d => acc * b + d) 0 = v % b ^ n := by
  induction n generalizing v with
  | zero => simp [Nat.mod_one]
  | succ n ih =>
    have hmap : (List.range n).map (fun i => v / b ^ (n + 1 - 1 - i) % b)
        = (List.range n).map fun i => v / b / b ^ (n - 1 - i) % b := by
      refine List.map_congr_left fun i hi => ?_
      have hi' : i < n := List.mem_range.mp hi
      rw [show n + 1 - 1 - i = n - 1 - i + 1 by omega, Nat.pow_succ', Nat.div_div_eq_div_mul]
    rw [List.range_succ, List.map_append, List.foldl_append, hmap, ih]
    simp only [List.map_cons, List.map_nil, List.foldl_cons, List.foldl_nil, Nat.add_sub_cancel, Nat.sub_self, pow_zero,
      Nat.div_one]
    rw [Nat.pow_succ', Nat.mod_mul]
    ring

@[simp] theorem beBytes_length (n v : Nat) : (beBytes n v).length = n := by simp [beBytes]

theorem beVal_beBytes (n v : Nat) : beVal (beBytes n v) = v % 256 ^ n := by
  rw [← foldl_positional 256 n v, beVal, beBytes, List.foldl_map, List.foldl_map]
  simp

@[simp] theorem digits_length (L v : Nat) : (digits L v).length = L := by simp [digits]

/-- Every character of a decimal string is a digit (rule R107). -/
theorem mem_digits {L v : Nat} {b : Byte} (h : b ∈ digits L v) : 0x30 ≤ b.toNat ∧ b.toNat ≤ 0x39 := by
  obtain ⟨i, -, rfl⟩ := List.mem_map.mp h
  rw [BitVec.toNat_ofNat]
  omega

/-- A decimal string spells its number. -/
theorem foldl_digits (L v : Nat) :
    (digits L v).foldl (fun acc b => acc * 10 + (b.toNat - 0x30)) 0 = v % 10 ^ L := by
  rw [← foldl_positional 10 L v, digits, List.foldl_map, List.foldl_map]
  congr 1
  funext acc i
  rw [BitVec.toNat_ofNat]
  omega

/-! ## Buffers -/

theorem byteAt_eq_getElem {s : List Byte} {i : Nat} (h : i < s.length) : byteAt s i = s[i] := by
  simp [byteAt, h]

@[simp] theorem byteAt_toList {n : Nat} (b : Vector Byte n) (i : Nat) (h : i < n) : byteAt b.toList i = b[i] := by
  rw [byteAt_eq_getElem (by simpa using h)]
  simp

@[simp] theorem padTo_getElem {n : Nat} (s : List Byte) (i : Nat) (h : i < n) : (padTo n s)[i] = byteAt s i := by
  simp [padTo]

/-- A buffer holds the string and zeros above it (rule R114). -/
theorem padTo_getElem_eq {n : Nat} (s : List Byte) (i : Fin n) :
    (i.val < s.length → s[i.val]? = some (padTo n s)[i]) ∧ (s.length ≤ i.val → (padTo n s)[i] = 0) := by
  constructor <;> intro h <;> simp [byteAt, h]

@[simp] theorem storeWord_getElem {n : Nat} (b : Vector Byte n) (k : Nat) (w : Word) (i : Nat) (h : i < n) :
    (storeWord b k w)[i] = if i / 4 = k then wordByte w (i % 4) else b[i] := by
  simp [storeWord]

/-- A word is the concatenation of its four bytes. -/
theorem word_eq_bytes (w : Word) : wordByte w 0 ++ wordByte w 1 ++ wordByte w 2 ++ wordByte w 3 = w := by
  refine BitVec.eq_of_getLsbD_eq fun k hk => ?_
  simp only [wordByte, BitVec.getLsbD_append, BitVec.getLsbD_extractLsb']
  interval_cases k <;> simp

/-- The register view of a buffer, at a register the buffer has. -/
theorem packWord_eq {n : Nat} (b : Vector Byte n) (k : Nat) (h : 4 * k + 3 < n) :
    packWord b k = b[4 * k] ++ b[4 * k + 1] ++ b[4 * k + 2] ++ b[4 * k + 3] := by
  simp only [packWord]
  rw [byteAt_toList _ _ (by omega), byteAt_toList _ _ (by omega), byteAt_toList _ _ (by omega), byteAt_toList _ _ h]

/-- A register of a buffer reads back what was written to it (rule R65). -/
theorem packWord_storeWord_same {n : Nat} (b : Vector Byte n) (k : Nat) (w : Word) (h : 4 * k + 3 < n) :
    packWord (storeWord b k w) k = w := by
  rw [packWord_eq _ _ h]
  simp only [storeWord_getElem]
  rw [if_pos (by omega), if_pos (by omega), if_pos (by omega), if_pos (by omega)]
  rw [show 4 * k % 4 = 0 by omega, show (4 * k + 1) % 4 = 1 by omega, show (4 * k + 2) % 4 = 2 by omega,
    show (4 * k + 3) % 4 = 3 by omega]
  exact word_eq_bytes w

/-- A write to one register of a buffer leaves the others. -/
theorem packWord_storeWord_ne {n : Nat} (b : Vector Byte n) (j k : Nat) (w : Word) (hne : j ≠ k) (h : 4 * j + 3 < n) :
    packWord (storeWord b k w) j = packWord b j := by
  rw [packWord_eq _ _ h, packWord_eq _ _ h]
  simp only [storeWord_getElem]
  rw [if_neg (by omega), if_neg (by omega), if_neg (by omega), if_neg (by omega)]

/-- Byte `j` of a buffer is byte `j mod 4` of its register `j div 4` (rule R65). -/
theorem wordByte_packWord {n : Nat} (b : Vector Byte n) (j : Nat) (h : 4 * (j / 4) + 3 < n) :
    wordByte (packWord b (j / 4)) (j % 4) = b[j] := by
  rw [packWord_eq _ _ h]
  obtain ⟨q, r, hr, rfl⟩ : ∃ q r, r < 4 ∧ j = 4 * q + r := ⟨j / 4, j % 4, by omega, by omega⟩
  have hq : (4 * q + r) / 4 = q := by omega
  have hm : (4 * q + r) % 4 = r := by omega
  simp only [hq, hm]
  refine BitVec.eq_of_getLsbD_eq fun i hi => ?_
  simp only [wordByte, BitVec.getLsbD_extractLsb', BitVec.getLsbD_append]
  interval_cases r <;> interval_cases i <;> simp

@[simp] theorem packWord_replicate_zero (n k : Nat) : packWord (Vector.replicate n (0 : Byte)) k = 0 := by
  have hb : ∀ i, byteAt (Vector.replicate n (0 : Byte)).toList i = 0 := by
    intro i
    simp [byteAt]
  simp only [packWord, hb]
  rfl

/-- A buffer holds the string it was filled with, then zeros (rule R114). -/
theorem padTo_toList (n : Nat) (s : List Byte) (h : s.length ≤ n) :
    (padTo n s).toList = s ++ List.replicate (n - s.length) 0 := by
  apply List.ext_getElem
  · simp [h]
  · intro i h1 h2
    simp only [Vector.getElem_toList, padTo_getElem]
    rw [List.getElem_append]
    split
    · exact byteAt_eq_getElem ‹_›
    · simp [byteAt]
      rw [List.getElem?_eq_none (by omega)]
      rfl

end Sys2Proof.Machine
end

