-- ==== Sys2Proof/Laws/State.lean ====
section
/-! SUPPORT. One lemma per field per update of the machine's state, so that no proof unfolds a record update. -/

namespace Sys2Proof.Machine

variable (s : State) (d e : Device) (r : BusResponse) (p : List HostAction)

@[simp] theorem State.withDev_dev : (s.withDev d).dev = d := rfl
@[simp] theorem State.withDev_pending : (s.withDev d).pending = s.pending := rfl
@[simp] theorem State.withDev_turns : (s.withDev d).turns = s.turns := rfl
@[simp] theorem State.withDev_responses : (s.withDev d).responses = s.responses := rfl
@[simp] theorem State.withDev_withDev : (s.withDev d).withDev e = s.withDev e := rfl
@[simp] theorem State.withDev_self : s.withDev s.dev = s := rfl

@[simp] theorem State.respond_dev : (s.respond r).dev = s.dev := rfl
@[simp] theorem State.respond_pending : (s.respond r).pending = s.pending := rfl
@[simp] theorem State.respond_turns : (s.respond r).turns = s.turns := rfl
@[simp] theorem State.respond_responses : (s.respond r).responses = r :: s.responses := rfl

@[simp] theorem State.withPending_dev : (s.withPending p).dev = s.dev := rfl
@[simp] theorem State.withPending_pending : (s.withPending p).pending = p := rfl
@[simp] theorem State.withPending_turns : (s.withPending p).turns = s.turns := rfl
@[simp] theorem State.withPending_responses : (s.withPending p).responses = s.responses := rfl

@[simp] theorem State.popTurn_dev : s.popTurn.dev = s.dev := rfl
@[simp] theorem State.popTurn_pending : s.popTurn.pending = s.pending := rfl
@[simp] theorem State.popTurn_turns : s.popTurn.turns = s.turns.tail := rfl
@[simp] theorem State.popTurn_responses : s.popTurn.responses = s.responses := rfl

/-! ## The updates of OTPG: every field of each, the changed and the unchanged -/

@[simp] theorem Device.storeCmd_fields (w : Word) :
    (d.storeCmd w).ie = d.ie ∧ (d.storeCmd w).status = d.status ∧ (d.storeCmd w).cmd = w ∧ (d.storeCmd w).keyLen = d.keyLen
      ∧ (d.storeCmd w).counter = d.counter ∧ (d.storeCmd w).timestamp = d.timestamp ∧ (d.storeCmd w).period = d.period
      ∧ (d.storeCmd w).below = d.below ∧ (d.storeCmd w).above = d.above ∧ (d.storeCmd w).start = d.start
      ∧ (d.storeCmd w).count = d.count ∧ (d.storeCmd w).candLen = d.candLen ∧ (d.storeCmd w).cand = d.cand
      ∧ (d.storeCmd w).key = d.key ∧ (d.storeCmd w).trunc = d.trunc ∧ (d.storeCmd w).codeVal = d.codeVal
      ∧ (d.storeCmd w).code = d.code ∧ (d.storeCmd w).digest = d.digest ∧ (d.storeCmd w).engine = d.engine := by
  and_intros <;> rfl

@[simp] theorem Device.clearFlags_fields :
    d.clearFlags.ie = d.ie ∧ d.clearFlags.status.busy = d.status.busy ∧ d.clearFlags.status.done = false
      ∧ d.clearFlags.status.err = false ∧ d.clearFlags.status.matched = false
      ∧ d.clearFlags.status.wign = d.status.wign ∧ d.clearFlags.status.errcode = .none ∧ d.clearFlags.cmd = d.cmd
      ∧ d.clearFlags.keyLen = d.keyLen ∧ d.clearFlags.counter = d.counter ∧ d.clearFlags.timestamp = d.timestamp
      ∧ d.clearFlags.period = d.period ∧ d.clearFlags.below = d.below ∧ d.clearFlags.above = d.above
      ∧ d.clearFlags.start = d.start ∧ d.clearFlags.count = d.count ∧ d.clearFlags.candLen = d.candLen
      ∧ d.clearFlags.cand = d.cand ∧ d.clearFlags.key = d.key ∧ d.clearFlags.trunc = d.trunc
      ∧ d.clearFlags.codeVal = d.codeVal ∧ d.clearFlags.code = d.code ∧ d.clearFlags.digest = d.digest
      ∧ d.clearFlags.engine = d.engine := by
  and_intros <;> rfl

@[simp] theorem Device.raiseError_fields (e : ErrCode) :
    (d.raiseError e).ie = d.ie ∧ (d.raiseError e).status.busy = d.status.busy ∧ (d.raiseError e).status.done = d.status.done
      ∧ (d.raiseError e).status.err = true ∧ (d.raiseError e).status.matched = d.status.matched
      ∧ (d.raiseError e).status.wign = d.status.wign ∧ (d.raiseError e).status.errcode = e ∧ (d.raiseError e).cmd = d.cmd
      ∧ (d.raiseError e).keyLen = d.keyLen ∧ (d.raiseError e).counter = d.counter ∧ (d.raiseError e).timestamp = d.timestamp
      ∧ (d.raiseError e).period = d.period ∧ (d.raiseError e).below = d.below ∧ (d.raiseError e).above = d.above
      ∧ (d.raiseError e).start = d.start ∧ (d.raiseError e).count = d.count ∧ (d.raiseError e).candLen = d.candLen
      ∧ (d.raiseError e).cand = d.cand ∧ (d.raiseError e).key = d.key ∧ (d.raiseError e).trunc = d.trunc
      ∧ (d.raiseError e).codeVal = d.codeVal ∧ (d.raiseError e).code = d.code ∧ (d.raiseError e).digest = d.digest
      ∧ (d.raiseError e).engine = d.engine := by
  and_intros <;> rfl

@[simp] theorem Device.latch_fields (op : Op) (alg : HashAlg) (f : CmdFields) (L : Fin 9) :
    (d.latch op alg f L).ie = d.ie ∧ (d.latch op alg f L).status = d.status ∧ (d.latch op alg f L).cmd = d.cmd
      ∧ (d.latch op alg f L).keyLen = d.keyLen ∧ (d.latch op alg f L).counter = d.counter
      ∧ (d.latch op alg f L).timestamp = d.timestamp ∧ (d.latch op alg f L).period = d.period
      ∧ (d.latch op alg f L).below = d.below ∧ (d.latch op alg f L).above = d.above ∧ (d.latch op alg f L).start = d.start
      ∧ (d.latch op alg f L).count = d.count ∧ (d.latch op alg f L).candLen = d.candLen ∧ (d.latch op alg f L).cand = d.cand
      ∧ (d.latch op alg f L).key = d.key ∧ (d.latch op alg f L).trunc = d.trunc ∧ (d.latch op alg f L).codeVal = d.codeVal
      ∧ (d.latch op alg f L).code = d.code ∧ (d.latch op alg f L).digest = d.digest ∧ (d.latch op alg f L).engine.op = op
      ∧ (d.latch op alg f L).engine.alg = alg ∧ (d.latch op alg f L).engine.vt = f.vt
      ∧ (d.latch op alg f L).engine.ainc = f.ainc ∧ (d.latch op alg f L).engine.len = L
      ∧ (d.latch op alg f L).engine.ctr = d.engine.ctr ∧ (d.latch op alg f L).engine.scanBase = d.engine.scanBase
      ∧ (d.latch op alg f L).engine.scanN = d.engine.scanN ∧ (d.latch op alg f L).engine.scanI = d.engine.scanI
      ∧ (d.latch op alg f L).engine.acc = d.engine.acc := by
  and_intros <;> rfl

@[simp] theorem Device.setBusy_fields :
    d.setBusy.ie = d.ie ∧ d.setBusy.status.busy = true ∧ d.setBusy.status.done = d.status.done
      ∧ d.setBusy.status.err = d.status.err ∧ d.setBusy.status.matched = d.status.matched
      ∧ d.setBusy.status.wign = d.status.wign ∧ d.setBusy.status.errcode = d.status.errcode ∧ d.setBusy.cmd = d.cmd
      ∧ d.setBusy.keyLen = d.keyLen ∧ d.setBusy.counter = d.counter ∧ d.setBusy.timestamp = d.timestamp
      ∧ d.setBusy.period = d.period ∧ d.setBusy.below = d.below ∧ d.setBusy.above = d.above
      ∧ d.setBusy.start = d.start ∧ d.setBusy.count = d.count ∧ d.setBusy.candLen = d.candLen
      ∧ d.setBusy.cand = d.cand ∧ d.setBusy.key = d.key ∧ d.setBusy.trunc = d.trunc ∧ d.setBusy.codeVal = d.codeVal
      ∧ d.setBusy.code = d.code ∧ d.setBusy.digest = d.digest ∧ d.setBusy.engine = d.engine := by
  and_intros <;> rfl

@[simp] theorem Device.setCounter_fields (c : DWord) :
    (d.setCounter c).ie = d.ie ∧ (d.setCounter c).status = d.status ∧ (d.setCounter c).cmd = d.cmd
      ∧ (d.setCounter c).keyLen = d.keyLen ∧ (d.setCounter c).counter = d.counter ∧ (d.setCounter c).timestamp = d.timestamp
      ∧ (d.setCounter c).period = d.period ∧ (d.setCounter c).below = d.below ∧ (d.setCounter c).above = d.above
      ∧ (d.setCounter c).start = d.start ∧ (d.setCounter c).count = d.count ∧ (d.setCounter c).candLen = d.candLen
      ∧ (d.setCounter c).cand = d.cand ∧ (d.setCounter c).key = d.key ∧ (d.setCounter c).trunc = d.trunc
      ∧ (d.setCounter c).codeVal = d.codeVal ∧ (d.setCounter c).code = d.code ∧ (d.setCounter c).digest = d.digest
      ∧ (d.setCounter c).engine.op = d.engine.op ∧ (d.setCounter c).engine.alg = d.engine.alg
      ∧ (d.setCounter c).engine.vt = d.engine.vt ∧ (d.setCounter c).engine.ainc = d.engine.ainc
      ∧ (d.setCounter c).engine.len = d.engine.len ∧ (d.setCounter c).engine.ctr = c
      ∧ (d.setCounter c).engine.scanBase = d.engine.scanBase ∧ (d.setCounter c).engine.scanN = d.engine.scanN
      ∧ (d.setCounter c).engine.scanI = d.engine.scanI ∧ (d.setCounter c).engine.acc = d.engine.acc := by
  and_intros <;> rfl

@[simp] theorem Device.clearResults_fields :
    d.clearResults.ie = d.ie ∧ d.clearResults.status = d.status ∧ d.clearResults.cmd = d.cmd
      ∧ d.clearResults.keyLen = d.keyLen ∧ d.clearResults.counter = d.counter ∧ d.clearResults.timestamp = d.timestamp
      ∧ d.clearResults.period = d.period ∧ d.clearResults.below = d.below ∧ d.clearResults.above = d.above
      ∧ d.clearResults.start = d.start ∧ d.clearResults.count = d.count ∧ d.clearResults.candLen = d.candLen
      ∧ d.clearResults.cand = d.cand ∧ d.clearResults.key = d.key ∧ d.clearResults.trunc = 0
      ∧ d.clearResults.codeVal = 0 ∧ d.clearResults.code = Vector.replicate 8 0
      ∧ d.clearResults.digest = Vector.replicate 64 0 ∧ d.clearResults.engine.op = d.engine.op
      ∧ d.clearResults.engine.alg = d.engine.alg ∧ d.clearResults.engine.vt = d.engine.vt
      ∧ d.clearResults.engine.ainc = d.engine.ainc ∧ d.clearResults.engine.len = d.engine.len
      ∧ d.clearResults.engine.ctr = d.engine.ctr ∧ d.clearResults.engine.scanBase = d.engine.scanBase
      ∧ d.clearResults.engine.scanN = d.engine.scanN ∧ d.clearResults.engine.scanI = 0
      ∧ d.clearResults.engine.acc = false := by
  and_intros <;> rfl

@[simp] theorem Device.setWindow_fields (base : DWord) (n : Nat) :
    (d.setWindow base n).ie = d.ie ∧ (d.setWindow base n).status = d.status ∧ (d.setWindow base n).cmd = d.cmd
      ∧ (d.setWindow base n).keyLen = d.keyLen ∧ (d.setWindow base n).counter = d.counter
      ∧ (d.setWindow base n).timestamp = d.timestamp ∧ (d.setWindow base n).period = d.period
      ∧ (d.setWindow base n).below = d.below ∧ (d.setWindow base n).above = d.above ∧ (d.setWindow base n).start = d.start
      ∧ (d.setWindow base n).count = d.count ∧ (d.setWindow base n).candLen = d.candLen ∧ (d.setWindow base n).cand = d.cand
      ∧ (d.setWindow base n).key = d.key ∧ (d.setWindow base n).trunc = d.trunc ∧ (d.setWindow base n).codeVal = d.codeVal
      ∧ (d.setWindow base n).code = d.code ∧ (d.setWindow base n).digest = d.digest
      ∧ (d.setWindow base n).engine.op = d.engine.op ∧ (d.setWindow base n).engine.alg = d.engine.alg
      ∧ (d.setWindow base n).engine.vt = d.engine.vt ∧ (d.setWindow base n).engine.ainc = d.engine.ainc
      ∧ (d.setWindow base n).engine.len = d.engine.len ∧ (d.setWindow base n).engine.ctr = d.engine.ctr
      ∧ (d.setWindow base n).engine.scanBase = base ∧ (d.setWindow base n).engine.scanN = n
      ∧ (d.setWindow base n).engine.scanI = d.engine.scanI ∧ (d.setWindow base n).engine.acc = d.engine.acc := by
  and_intros <;> rfl

@[simp] theorem Device.writeResults_fields (D : List Byte) (T V : Nat) (S : List Byte) :
    (d.writeResults D T V S).ie = d.ie ∧ (d.writeResults D T V S).status = d.status ∧ (d.writeResults D T V S).cmd = d.cmd
      ∧ (d.writeResults D T V S).keyLen = d.keyLen ∧ (d.writeResults D T V S).counter = d.counter
      ∧ (d.writeResults D T V S).timestamp = d.timestamp ∧ (d.writeResults D T V S).period = d.period
      ∧ (d.writeResults D T V S).below = d.below ∧ (d.writeResults D T V S).above = d.above
      ∧ (d.writeResults D T V S).start = d.start ∧ (d.writeResults D T V S).count = d.count
      ∧ (d.writeResults D T V S).candLen = d.candLen ∧ (d.writeResults D T V S).cand = d.cand
      ∧ (d.writeResults D T V S).key = d.key ∧ (d.writeResults D T V S).trunc = BitVec.ofNat 31 T
      ∧ (d.writeResults D T V S).codeVal = BitVec.ofNat 27 V ∧ (d.writeResults D T V S).code = padTo 8 S
      ∧ (d.writeResults D T V S).digest = padTo 64 D ∧ (d.writeResults D T V S).engine = d.engine := by
  and_intros <;> rfl

@[simp] theorem Device.writeCounter_fields (c : DWord) :
    (d.writeCounter c).ie = d.ie ∧ (d.writeCounter c).status = d.status ∧ (d.writeCounter c).cmd = d.cmd
      ∧ (d.writeCounter c).keyLen = d.keyLen ∧ (d.writeCounter c).counter = c ∧ (d.writeCounter c).timestamp = d.timestamp
      ∧ (d.writeCounter c).period = d.period ∧ (d.writeCounter c).below = d.below ∧ (d.writeCounter c).above = d.above
      ∧ (d.writeCounter c).start = d.start ∧ (d.writeCounter c).count = d.count ∧ (d.writeCounter c).candLen = d.candLen
      ∧ (d.writeCounter c).cand = d.cand ∧ (d.writeCounter c).key = d.key ∧ (d.writeCounter c).trunc = d.trunc
      ∧ (d.writeCounter c).codeVal = d.codeVal ∧ (d.writeCounter c).code = d.code ∧ (d.writeCounter c).digest = d.digest
      ∧ (d.writeCounter c).engine = d.engine := by
  and_intros <;> rfl

@[simp] theorem Device.scanned_fields (m : Bool) :
    (d.scanned m).ie = d.ie ∧ (d.scanned m).status = d.status ∧ (d.scanned m).cmd = d.cmd ∧ (d.scanned m).keyLen = d.keyLen
      ∧ (d.scanned m).counter = d.counter ∧ (d.scanned m).timestamp = d.timestamp ∧ (d.scanned m).period = d.period
      ∧ (d.scanned m).below = d.below ∧ (d.scanned m).above = d.above ∧ (d.scanned m).start = d.start
      ∧ (d.scanned m).count = d.count ∧ (d.scanned m).candLen = d.candLen ∧ (d.scanned m).cand = d.cand
      ∧ (d.scanned m).key = d.key ∧ (d.scanned m).trunc = d.trunc ∧ (d.scanned m).codeVal = d.codeVal
      ∧ (d.scanned m).code = d.code ∧ (d.scanned m).digest = d.digest ∧ (d.scanned m).engine.op = d.engine.op
      ∧ (d.scanned m).engine.alg = d.engine.alg ∧ (d.scanned m).engine.vt = d.engine.vt
      ∧ (d.scanned m).engine.ainc = d.engine.ainc ∧ (d.scanned m).engine.len = d.engine.len
      ∧ (d.scanned m).engine.ctr = d.engine.ctr ∧ (d.scanned m).engine.scanBase = d.engine.scanBase
      ∧ (d.scanned m).engine.scanN = d.engine.scanN ∧ (d.scanned m).engine.scanI = d.engine.scanI + 1
      ∧ (d.scanned m).engine.acc = (d.engine.acc || m) := by
  and_intros <;> rfl

@[simp] theorem Device.setMatch_fields (m : Bool) :
    (d.setMatch m).ie = d.ie ∧ (d.setMatch m).status.busy = d.status.busy ∧ (d.setMatch m).status.done = d.status.done
      ∧ (d.setMatch m).status.err = d.status.err ∧ (d.setMatch m).status.matched = m
      ∧ (d.setMatch m).status.wign = d.status.wign ∧ (d.setMatch m).status.errcode = d.status.errcode
      ∧ (d.setMatch m).cmd = d.cmd ∧ (d.setMatch m).keyLen = d.keyLen ∧ (d.setMatch m).counter = d.counter
      ∧ (d.setMatch m).timestamp = d.timestamp ∧ (d.setMatch m).period = d.period ∧ (d.setMatch m).below = d.below
      ∧ (d.setMatch m).above = d.above ∧ (d.setMatch m).start = d.start ∧ (d.setMatch m).count = d.count
      ∧ (d.setMatch m).candLen = d.candLen ∧ (d.setMatch m).cand = d.cand ∧ (d.setMatch m).key = d.key
      ∧ (d.setMatch m).trunc = d.trunc ∧ (d.setMatch m).codeVal = d.codeVal ∧ (d.setMatch m).code = d.code
      ∧ (d.setMatch m).digest = d.digest ∧ (d.setMatch m).engine = d.engine := by
  and_intros <;> rfl

@[simp] theorem Device.finish_fields :
    d.finish.ie = d.ie ∧ d.finish.status.busy = false ∧ d.finish.status.done = true
      ∧ d.finish.status.err = d.status.err ∧ d.finish.status.matched = d.status.matched
      ∧ d.finish.status.wign = d.status.wign ∧ d.finish.status.errcode = d.status.errcode ∧ d.finish.cmd = d.cmd
      ∧ d.finish.keyLen = d.keyLen ∧ d.finish.counter = d.counter ∧ d.finish.timestamp = d.timestamp
      ∧ d.finish.period = d.period ∧ d.finish.below = d.below ∧ d.finish.above = d.above ∧ d.finish.start = d.start
      ∧ d.finish.count = d.count ∧ d.finish.candLen = d.candLen ∧ d.finish.cand = d.cand ∧ d.finish.key = d.key
      ∧ d.finish.trunc = d.trunc ∧ d.finish.codeVal = d.codeVal ∧ d.finish.code = d.code
      ∧ d.finish.digest = d.digest ∧ d.finish.engine = d.engine := by
  and_intros <;> rfl

@[simp] theorem Device.clearStatus_fields (v : Word) :
    (d.clearStatus v).ie = d.ie ∧ (d.clearStatus v).status.busy = d.status.busy
      ∧ (d.clearStatus v).status.done = (d.status.done && !v.getLsbD 1)
      ∧ (d.clearStatus v).status.err = (d.status.err && !v.getLsbD 2) ∧ (d.clearStatus v).status.matched = d.status.matched
      ∧ (d.clearStatus v).status.wign = (d.status.wign && !v.getLsbD 4)
      ∧ (d.clearStatus v).status.errcode = (if v.getLsbD 2 then .none else d.status.errcode) ∧ (d.clearStatus v).cmd = d.cmd
      ∧ (d.clearStatus v).keyLen = d.keyLen ∧ (d.clearStatus v).counter = d.counter
      ∧ (d.clearStatus v).timestamp = d.timestamp ∧ (d.clearStatus v).period = d.period ∧ (d.clearStatus v).below = d.below
      ∧ (d.clearStatus v).above = d.above ∧ (d.clearStatus v).start = d.start ∧ (d.clearStatus v).count = d.count
      ∧ (d.clearStatus v).candLen = d.candLen ∧ (d.clearStatus v).cand = d.cand ∧ (d.clearStatus v).key = d.key
      ∧ (d.clearStatus v).trunc = d.trunc ∧ (d.clearStatus v).codeVal = d.codeVal ∧ (d.clearStatus v).code = d.code
      ∧ (d.clearStatus v).digest = d.digest ∧ (d.clearStatus v).engine = d.engine := by
  and_intros <;> rfl

@[simp] theorem Device.ignoreWrite_fields :
    d.ignoreWrite.ie = d.ie ∧ d.ignoreWrite.status.busy = d.status.busy ∧ d.ignoreWrite.status.done = d.status.done
      ∧ d.ignoreWrite.status.err = d.status.err ∧ d.ignoreWrite.status.matched = d.status.matched
      ∧ d.ignoreWrite.status.wign = true ∧ d.ignoreWrite.status.errcode = d.status.errcode ∧ d.ignoreWrite.cmd = d.cmd
      ∧ d.ignoreWrite.keyLen = d.keyLen ∧ d.ignoreWrite.counter = d.counter ∧ d.ignoreWrite.timestamp = d.timestamp
      ∧ d.ignoreWrite.period = d.period ∧ d.ignoreWrite.below = d.below ∧ d.ignoreWrite.above = d.above
      ∧ d.ignoreWrite.start = d.start ∧ d.ignoreWrite.count = d.count ∧ d.ignoreWrite.candLen = d.candLen
      ∧ d.ignoreWrite.cand = d.cand ∧ d.ignoreWrite.key = d.key ∧ d.ignoreWrite.trunc = d.trunc
      ∧ d.ignoreWrite.codeVal = d.codeVal ∧ d.ignoreWrite.code = d.code ∧ d.ignoreWrite.digest = d.digest
      ∧ d.ignoreWrite.engine = d.engine := by
  and_intros <;> rfl

/-! ## The turn -/

/-- Whose turn it is, with none listed. -/
theorem State.nextTurn_nil (h : s.turns = []) :
    s.nextTurn = if s.dev.status.busy then .engine else .host := by
  simp [State.nextTurn, h]

/-- Whose turn it is, from the list. -/
theorem State.nextTurn_cons {t : Turn} {ts : List Turn} (h : s.turns = t :: ts) : s.nextTurn = t := by
  simp [State.nextTurn, h]

end Sys2Proof.Machine
end

