-- ==== Sys2Proof/Laws/Issue.lean ====
section
/-! SUPPORT. The issue of a command: what validation answers, and what the issue leaves in each case. -/

namespace Sys2Proof.Machine

/-- Validation reads the flags of no earlier command. -/
@[simp] theorem validate_clearFlags (d : Device) (op : Op) (f : CmdFields) :
    d.clearFlags.validate op f = d.validate op f := rfl

/-- Validation accepts exactly under the conditions of rule R91. -/
theorem validate_eq_ok_iff (d : Device) (op : Op) (f : CmdFields) (alg : HashAlg) (L : Fin 9) :
    d.validate op f = .ok alg L ↔ d.Accepts op f alg L := by
  unfold Device.validate Config.keyMax
  constructor
  · intro h
    split at h
    · cases h
    · split_ifs at h with h1 h2 h3
      cases h
      refine ⟨‹_›, by omega, ?_, rfl⟩
      intro ht hp
      simp [ht, hp] at h2
  · rintro ⟨ha, hk, hp, hl⟩
    have hp' : (op.isTotp && d.period == 0) = false := by
      cases ht : op.isTotp <;> simp_all
    have hL : (d.codeLength op f).toNat ≤ 8 := by omega
    simp only [ha, if_neg (show ¬128 < d.keyLen.toNat by omega), hp', dif_pos hL]
    simp [hl]

/-- Validation answers one of the errors of rule R161, and never "none". -/
theorem validate_error_ne_none {d : Device} {op : Op} {f : CmdFields} {e : ErrCode}
    (h : d.validate op f = .error e) : e ≠ .none := by
  unfold Device.validate at h
  split at h
  · cases h; decide
  · split_ifs at h <;> cases h <;> decide

/-- An accepted issue (rule R91). -/
theorem issue_of_accepts {d : Device} {op : Op} {f : CmdFields} {alg : HashAlg} {L : Fin 9}
    (h : d.Accepts op f alg L) (setup : Device → Device) :
    d.issue op f setup = (setup (d.clearFlags.latch op alg f L)).setBusy := by
  simp [Device.issue, (validate_eq_ok_iff d op f alg L).mpr h]

/-- A rejected issue (rule R163). -/
theorem issue_of_error {d : Device} {op : Op} {f : CmdFields} {e : ErrCode}
    (h : d.validate op f = .error e) (setup : Device → Device) :
    d.issue op f setup = { d with status := d.status.rejected e } := by
  simp only [Device.issue, validate_clearFlags, h]
  rfl

/-- Every issue is accepted or rejected. -/
theorem accepts_or_error (d : Device) (op : Op) (f : CmdFields) :
    (∃ alg L, d.Accepts op f alg L) ∨ ∃ e, d.validate op f = .error e ∧ e ≠ .none := by
  cases h : d.validate op f with
  | ok alg L => exact .inl ⟨alg, L, (validate_eq_ok_iff _ _ _ _ _).mp h⟩
  | error e => exact .inr ⟨e, rfl, validate_error_ne_none h⟩

/-- The device after the setup of each operation. -/
def setupOf : Op → Device → Device
  | .gen => setupGen
  | .tgen => setupTgen
  | .chk => setupChk
  | .hchk => setupHchk
  | .tchk => setupTchk

/-- Every command's meaning is the issue of its operation and fields. -/
theorem exec_eq (i : Instr) (s : State) :
    exec i s = .next (s.withDev (s.dev.issue i.op i.fields (setupOf i.op))) := by
  cases i <;> rfl

/-- An accepted check: the scan of its window starts (rule R138). -/
theorem issue_check {d : Device} {op : Op} {f : CmdFields} {alg : HashAlg} {L : Fin 9}
    (hop : op.isGenerate = false) (h : d.Accepts op f alg L) :
    d.issue op f (setupOf op) = { d with
      status := d.status.issued
      trunc := 0
      codeVal := 0
      code := Vector.replicate 8 0
      digest := Vector.replicate 64 0
      engine := { op := op, alg := alg, vt := f.vt, ainc := f.ainc, len := L, ctr := d.engine.ctr,
                  scanBase := (d.window op).base, scanN := (d.window op).count, scanI := 0, acc := false } } := by
  rw [issue_of_accepts h]
  cases op <;> first | (cases hop; done) | rfl

/-- An accepted GEN. -/
theorem issue_gen {d : Device} {f : CmdFields} {alg : HashAlg} {L : Fin 9} (h : d.Accepts .gen f alg L) :
    d.issue .gen f setupGen = { d with
      status := d.status.issued
      engine := { d.engine with op := .gen, alg := alg, vt := f.vt, ainc := f.ainc, len := L, ctr := d.counter } } := by
  rw [issue_of_accepts h]
  rfl

/-- An accepted TGEN. -/
theorem issue_tgen {d : Device} {f : CmdFields} {alg : HashAlg} {L : Fin 9} (h : d.Accepts .tgen f alg L) :
    d.issue .tgen f setupTgen = { d with
      status := d.status.issued
      engine := { d.engine with op := .tgen, alg := alg, vt := f.vt, ainc := f.ainc, len := L,
                                ctr := totpCounter d.timestamp d.period } } := by
  rw [issue_of_accepts h]
  rfl

/-- STATUS after an accepted issue. -/
theorem issue_status_of_accepts {d : Device} {op : Op} {f : CmdFields} {alg : HashAlg} {L : Fin 9}
    (h : d.Accepts op f alg L) : (d.issue op f (setupOf op)).status = d.status.issued := by
  rw [issue_of_accepts h]
  cases op <;> rfl

/-- Which error an issue reports (rules R91, R161, R164), and that ERR goes with it. -/
theorem issue_errcode (d : Device) (op : Op) (f : CmdFields) :
    (d.issue op f (setupOf op)).status.errcode =
        (if hashOf f.alg = none then .invalidAlgorithm
         else if 128 < d.keyLen.toNat then .invalidKeylen
         else if op.isTotp = true ∧ d.period = 0 then .invalidPeriod
         else if 8 < (d.codeLength op f).toNat then .invalidLength
         else .none)
    ∧ ((d.issue op f (setupOf op)).status.err = true ↔ (d.issue op f (setupOf op)).status.errcode ≠ .none) := by
  rcases accepts_or_error d op f with ⟨alg, L, h⟩ | ⟨e, h, hne⟩
  · rw [issue_status_of_accepts h]
    obtain ⟨ha, hk, hp, hl⟩ := h
    simp only [Status.issued]
    rw [if_neg (by simp [ha]), if_neg (by omega), if_neg (fun h => hp h.1 h.2), if_neg (by omega)]
    simp
  · rw [issue_of_error h]
    refine ⟨?_, by simp [Status.rejected, hne]⟩
    unfold Device.validate Config.keyMax at h
    split at h
    · cases h; simp [*, Status.rejected]
    · rw [if_neg (by simp [*])]
      split_ifs at h with h1 h2 h3 <;> cases h
      · exact (if_pos h1).symm
      · rw [if_neg h1]
        simp at h2
        exact (if_pos h2).symm
      · rw [if_neg h1, if_neg (by simpa using h2), if_pos (by omega)]
        rfl

/-- The TOTP counter is the quotient itself (rule R113). -/
theorem totpCounter_toNat (ts p : DWord) : (totpCounter ts p).toNat = ts.toNat / p.toNat :=
  wrap64_toNat_of_lt (Nat.lt_of_le_of_lt (Nat.div_le_self _ _) ts.isLt)

/-- The TCHK window for every operand value (rules R144 to R146; log 8). -/
theorem totpWindow_eq (ts p below above : DWord) :
    totpWindow ts p below above =
      ⟨wrap64 ((ts.toNat - below.toNat) / p.toNat : Nat),
        if (ts.toNat - below.toNat) / p.toNat ≤ (ts.toNat + above.toNat) % 2 ^ 64 / p.toNat then
          (ts.toNat + above.toNat) % 2 ^ 64 / p.toNat - (ts.toNat - below.toNat) / p.toNat + 1
        else 0⟩ := by
  have he : (wrap64 ((ts.toNat : Int) + above.toNat)).toNat = (ts.toNat + above.toNat) % 2 ^ 64 := by
    rw [wrap64_toNat]; omega
  have hs : (if below.toNat ≤ ts.toNat then ts.toNat - below.toNat else 0) = ts.toNat - below.toNat := by
    split <;> omega
  simp only [totpWindow, he, hs]

/-- A TCHK window has at most 2^64 counters, so SCAN_N fits its 65 bits. -/
theorem totpWindow_count_le (ts p below above : DWord) : (totpWindow ts p below above).count ≤ 2 ^ 64 := by
  rw [totpWindow_eq]
  have h : (ts.toNat + above.toNat) % 2 ^ 64 / p.toNat < 2 ^ 64 :=
    Nat.lt_of_le_of_lt (Nat.div_le_self _ _) (Nat.mod_lt _ (by decide))
  generalize (ts.toNat + above.toNat) % 2 ^ 64 / p.toNat = eC at *
  generalize (ts.toNat - below.toNat) / p.toNat = sC
  simp only
  split_ifs <;> omega

/-- The TCHK window where the end does not wrap. -/
theorem totpWindow_of_no_wrap {ts above : DWord} (h : ts.toNat + above.toNat < 2 ^ 64) (p below : DWord) :
    totpWindow ts p below above =
      ⟨wrap64 ((ts.toNat - below.toNat) / p.toNat : Nat),
        if (ts.toNat - below.toNat) / p.toNat ≤ (ts.toNat + above.toNat) / p.toNat then
          (ts.toNat + above.toNat) / p.toNat - (ts.toNat - below.toNat) / p.toNat + 1
        else 0⟩ := by
  rw [totpWindow_eq, Nat.mod_eq_of_lt h]

end Sys2Proof.Machine
end

