-- ==== Sys2Proof/Laws/Pipeline.lean ====
section
/-! SUPPORT. What the code pipeline computes, stage by stage. -/

namespace Sys2Proof.Machine

theorem digestLen_ge (alg : HashAlg) : 20 ≤ digestLen alg := by cases alg <;> decide

theorem digestLen_le (alg : HashAlg) : digestLen alg ≤ 64 := by cases alg <;> decide

/-- The low four bits of the last byte, as a number (rule R103). -/
theorem digestOffset_eq (D : List Byte) : digestOffset D = (byteAt D (D.length - 1)).toNat % 16 := by
  rw [digestOffset, BitVec.toNat_and]
  exact Nat.and_two_pow_sub_one_eq_mod _ 4

/-- The offset is at most 15 (rule R103). -/
theorem digestOffset_le (D : List Byte) : digestOffset D ≤ 15 := by
  simp only [digestOffset, BitVec.toNat_and]
  exact Nat.and_le_right

/-- The four bytes at the offset, as one number. -/
theorem beVal_slice {D : List Byte} {off : Nat} (h : off + 3 < D.length) :
    beVal ((D.drop off).take 4) = (byteAt D off).toNat * 2 ^ 24 + (byteAt D (off + 1)).toNat * 2 ^ 16
      + (byteAt D (off + 2)).toNat * 2 ^ 8 + (byteAt D (off + 3)).toNat := by
  have hs : (D.drop off).take 4 = [byteAt D off, byteAt D (off + 1), byteAt D (off + 2), byteAt D (off + 3)] := by
    apply List.ext_getElem
    · simp
      omega
    · intro i h1 h2
      simp only [List.length_cons, List.length_nil] at h2
      rw [List.getElem_take, List.getElem_drop]
      interval_cases i <;> simp [byteAt_eq_getElem, h, show off < D.length by omega, show off + 1 < D.length by omega,
        show off + 2 < D.length by omega]
  rw [hs, beVal]
  simp only [List.foldl_cons, List.foldl_nil]
  ring

/-- Masking a byte with 0x7F drops its top bit. -/
theorem toNat_and_7F (b : Byte) : (b &&& 0x7F#8).toNat = b.toNat % 2 ^ 7 := by
  rw [BitVec.toNat_and]
  exact Nat.and_two_pow_sub_one_eq_mod _ 7

/-- Masking with 0x7FFFFFFF keeps 31 bits (rule R104). -/
theorem and_7FFFFFFF (n : Nat) : n &&& 0x7FFFFFFF = n % 2 ^ 31 :=
  Nat.and_two_pow_sub_one_eq_mod n 31

theorem truncated_lt (D : List Byte) : truncated D < 2 ^ 31 := by
  rw [truncated, and_7FFFFFFF]
  exact Nat.mod_lt _ (by decide)

/-- The code of a digest: its fields are bounded and its characters are L digits (rules R105 to R107). -/
theorem codeOfDigest_value_lt (D : List Byte) (L : Nat) : (codeOfDigest D L).value < 10 ^ L :=
  Nat.mod_lt _ (Nat.pow_pos (by decide))

@[simp] theorem codeOfDigest_chars_length (D : List Byte) (L : Nat) : (codeOfDigest D L).chars.length = L :=
  digits_length _ _

theorem otpCode_value_lt (kh : KeyedHash) (alg : HashAlg) (key : List Byte) (c : Int) (L : Fin 9) :
    (otpCode kh alg key c L).value < 10 ^ 8 :=
  Nat.lt_of_lt_of_le (codeOfDigest_value_lt _ _) (Nat.pow_le_pow_right (by decide) (by omega))

/-- Only the counter modulo 2^64 matters (rule R101). -/
theorem otpCode_wrap64 (kh : KeyedHash) (alg : HashAlg) (key : List Byte) (c : Int) (L : Fin 9) :
    otpCode kh alg key (wrap64 c).toNat L = otpCode kh alg key c L := by
  simp [otpCode, counterMessage]

/-- The code of length 0 is the empty string (rule R106). -/
theorem otpCode_zero_chars (kh : KeyedHash) (alg : HashAlg) (key : List Byte) (c : Int) :
    (otpCode kh alg key c 0).chars = [] := rfl

end Sys2Proof.Machine
end

