-- ==== Sys2Proof/Laws/EngineStep.lean ====
section
/-! SUPPORT. What an engine step can do, said once per operation, and what a run of engine steps adds up to. -/

namespace Sys2Proof.Machine

variable (kh : KeyedHash)

/-! ## One step -/

/-- The engine has no step while BUSY = 0 (rule R27). -/
theorem engineStep_idle {d : Device} (h : d.status.busy = false) : engineStep kh d = d := by
  simp [engineStep, h]

/-- The engine step of GEN (rule R110). -/
theorem engineStep_gen {d : Device} (hb : d.status.busy = true) (ho : d.engine.op = .gen) :
    engineStep kh d =
      let r := d.engineCode kh
      { d with
        trunc := BitVec.ofNat 31 r.trunc
        codeVal := BitVec.ofNat 27 r.value
        code := padTo 8 r.chars
        digest := padTo 64 r.digest
        counter := if d.engine.ainc then wrap64 (d.engine.ctr.toNat + 1) else d.counter
        status := { d.status with busy := false, done := true } } := by
  simp only [engineStep, hb, if_true, engineWork, ho, engineGen]
  cases h : d.engine.ainc <;> rfl

/-- The engine step of TGEN (rule R112). -/
theorem engineStep_tgen {d : Device} (hb : d.status.busy = true) (ho : d.engine.op = .tgen) :
    engineStep kh d =
      let r := d.engineCode kh
      { d with
        trunc := BitVec.ofNat 31 r.trunc
        codeVal := BitVec.ofNat 27 r.value
        code := padTo 8 r.chars
        digest := padTo 64 r.digest
        status := { d.status with busy := false, done := true } } := by
  simp only [engineStep, hb, if_true, engineWork, ho]
  rfl

/-- The engine step of every check is the scan step (rule R134). -/
theorem engineStep_check {d : Device} (hb : d.status.busy = true) (ho : d.engine.op.isGenerate = false) :
    engineStep kh d = scanStep kh d := by
  simp only [engineStep, hb, if_true, engineWork]
  cases h : d.engine.op <;> first | rfl | (rw [h] at ho; cases ho)

/-- The comparison of a scan step computes `match`, in either mode (rule R133). -/
theorem compare_equal (d : Device) (i : Nat) :
    (d.compare (d.windowCode kh i)).equal = d.matchesAt kh i := by
  unfold Device.compare
  split
  · exact matchVt_equal _ _ _
  · exact matchCt_equal _ _ _ (by omega)

/-- A scan step that evaluates a counter. -/
theorem scanStep_scanning {d : Device} (h : d.engine.scanning = true) :
    scanStep kh d = d.scanned (d.matchesAt kh d.engine.scanI) := by
  rw [scanStep, if_pos h, compare_equal]

/-- The scan step that completes the check (rule R135). -/
theorem scanStep_complete {d : Device} (h : d.engine.scanning = false) :
    scanStep kh d = { d with status := { d.status with busy := false, done := true, matched := d.engine.acc } } := by
  rw [scanStep, if_neg (by simp [h])]
  rfl

theorem scanning_iff (e : Engine) : e.scanning = true ↔ e.scanI < e.scanN ∧ ¬(e.vt = true ∧ e.acc = true) := by
  cases hv : e.vt <;> simp [Engine.scanning, hv]

/-! ## Runs -/

theorem engineRun_idle {d : Device} (h : d.status.busy = false) (n : Nat) : engineRun kh n d = d := by
  induction n with
  | zero => rfl
  | succ n ih => rw [engineRun, engineStep_idle kh h, ih]

theorem engineRun_add (m n : Nat) (d : Device) : engineRun kh (m + n) d = engineRun kh n (engineRun kh m d) := by
  induction m generalizing d with
  | zero => rw [Nat.zero_add]; rfl
  | succ m ih => rw [Nat.succ_add, engineRun, engineRun, ih]

theorem engineRun_one (d : Device) : engineRun kh 1 d = engineStep kh d := rfl

/-- One more step at the end of a run. -/
theorem engineRun_succ (n : Nat) (d : Device) : engineRun kh (n + 1) d = engineStep kh (engineRun kh n d) := by
  rw [engineRun_add, engineRun_one]

/-- The device with the scan at index `i` and ACC = `a`. -/
def Device.scanAt (d : Device) (i : Nat) (a : Bool) : Device :=
  { d with engine := { d.engine with scanI := i, acc := a } }

@[simp] theorem Device.scanAt_self (d : Device) : d.scanAt d.engine.scanI d.engine.acc = d := rfl
@[simp] theorem Device.scanAt_at (d : Device) (i j : Nat) (a b : Bool) : (d.scanAt i a).scanAt j b = d.scanAt j b := rfl
@[simp] theorem Device.scanAt_status (d : Device) (i : Nat) (a : Bool) : (d.scanAt i a).status = d.status := rfl
@[simp] theorem Device.scanAt_op (d : Device) (i : Nat) (a : Bool) : (d.scanAt i a).engine.op = d.engine.op := rfl
@[simp] theorem Device.scanAt_scanI (d : Device) (i : Nat) (a : Bool) : (d.scanAt i a).engine.scanI = i := rfl
@[simp] theorem Device.scanAt_acc (d : Device) (i : Nat) (a : Bool) : (d.scanAt i a).engine.acc = a := rfl
@[simp] theorem Device.scanAt_matchesAt (d : Device) (i k : Nat) (a : Bool) :
    (d.scanAt i a).matchesAt kh k = d.matchesAt kh k := rfl

/-- One evaluated counter moves the scan on by one. -/
theorem engineStep_at {d : Device} (hb : d.status.busy = true) (ho : d.engine.op.isGenerate = false) {i : Nat} {a : Bool}
    (hi : i < d.engine.scanN) (hv : ¬(d.engine.vt = true ∧ a = true)) :
    engineStep kh (d.scanAt i a) = d.scanAt (i + 1) (a || d.matchesAt kh i) := by
  rw [engineStep_check kh (d := d.scanAt i a) hb ho, scanStep_scanning kh ((scanning_iff _).mpr ⟨hi, hv⟩)]
  rfl

/-- `n` evaluated counters: where no earlier one ends a variable-time scan, the scan is at index `i + n` and ACC has gathered the
matches among them. -/
theorem engineRun_at {d : Device} (hb : d.status.busy = true) (ho : d.engine.op.isGenerate = false) (i n : Nat) (a : Bool)
    (hn : i + n ≤ d.engine.scanN)
    (hv : d.engine.vt = true → ∀ m < n, (a || (List.range m).any fun j => d.matchesAt kh (i + j)) = false) :
    engineRun kh n (d.scanAt i a) = d.scanAt (i + n) (a || (List.range n).any fun j => d.matchesAt kh (i + j)) := by
  induction n with
  | zero => simp [engineRun]
  | succ n ih =>
    rw [engineRun_succ, ih (by omega) (fun h m hm => hv h m (by omega)),
      engineStep_at kh hb ho (by omega) (fun h => by simp [hv h.1 n (by omega)] at h)]
    rw [List.range_succ, List.any_append, Bool.or_assoc]
    simp [Nat.add_assoc]

/-- The step that completes a check. -/
theorem engineStep_at_complete {d : Device} (hb : d.status.busy = true) (ho : d.engine.op.isGenerate = false) {i : Nat}
    {a : Bool} (h : d.engine.scanN ≤ i ∨ (d.engine.vt = true ∧ a = true)) :
    (engineStep kh (d.scanAt i a)).status = { d.status with busy := false, done := true, matched := a } := by
  rw [engineStep_check kh (d := d.scanAt i a) hb ho, scanStep_complete kh]
  · rfl
  · rw [← Bool.not_eq_true, scanning_iff]
    rintro ⟨h1, h2⟩
    rcases h with h | h
    · exact absurd h1 (Nat.not_lt.mpr h)
    · exact h2 h

/-- A scan from index 0 with nothing found is the device itself there. -/
theorem Device.scanAt_zero {d : Device} (hi : d.engine.scanI = 0) (ha : d.engine.acc = false) : d.scanAt 0 false = d := by
  rw [← hi, ← ha, Device.scanAt_self]

/-- A scan from its start, while no earlier match ends it: after `n` engine steps `n` counters are evaluated and ACC says whether
one of them matches. A constant-time scan is never ended (rule R136). -/
theorem engineRun_scan {d : Device} (hb : d.status.busy = true) (ho : d.engine.op.isGenerate = false)
    (hi : d.engine.scanI = 0) (ha : d.engine.acc = false) (n : Nat) (hn : n ≤ d.engine.scanN)
    (hv : d.engine.vt = true → ∀ j, j + 1 < n → d.matchesAt kh j = false) :
    engineRun kh n d = d.scanAt n ((List.range n).any fun j => d.matchesAt kh j) := by
  have h := engineRun_at kh hb ho 0 n false (by omega) (by
    intro h m hm
    simp only [Bool.false_or, Nat.zero_add, List.any_eq_false, List.mem_range]
    exact fun j hj => by simp [hv h j (by omega)])
  simpa [Device.scanAt_zero hi ha] using h

/-- What an engine step writes, and nothing else: STATUS, the hidden state, the result registers and COUNTER (rule R47). -/
theorem engineStep_frame (d : Device) :
    ∃ st e c tr cv co di, engineStep kh d =
      { d with status := st, engine := e, counter := c, trunc := tr, codeVal := cv, code := co, digest := di } := by
  cases hb : d.status.busy with
  | false => exact ⟨_, _, _, _, _, _, _, engineStep_idle kh hb⟩
  | true =>
    cases ho : d.engine.op.isGenerate with
    | false =>
      rw [engineStep_check kh hb ho]
      cases hs : d.engine.scanning with
      | false => exact ⟨_, _, _, _, _, _, _, scanStep_complete kh hs⟩
      | true => exact ⟨_, _, _, _, _, _, _, scanStep_scanning kh hs⟩
    | true =>
      cases hop : d.engine.op with
      | gen => exact ⟨_, _, _, _, _, _, _, engineStep_gen kh hb hop⟩
      | tgen => exact ⟨_, _, _, _, _, _, _, engineStep_tgen kh hb hop⟩
      | chk => simp [hop, Op.isGenerate] at ho
      | hchk => simp [hop, Op.isGenerate] at ho
      | tchk => simp [hop, Op.isGenerate] at ho

/-- An engine step after which the command is still in progress evaluated one counter of a check. -/
theorem engineStep_still_busy {d : Device} (h : (engineStep kh d).status.busy = true) (hb : d.status.busy = true) :
    d.engine.op.isGenerate = false ∧ d.engine.scanning = true
      ∧ engineStep kh d = d.scanned (d.matchesAt kh d.engine.scanI) := by
  cases ho : d.engine.op.isGenerate with
  | false =>
    rw [engineStep_check kh hb ho] at h ⊢
    cases hs : d.engine.scanning with
    | false => rw [scanStep_complete kh hs] at h; cases h
    | true => exact ⟨rfl, rfl, scanStep_scanning kh hs⟩
  | true =>
    cases hop : d.engine.op with
    | gen => rw [engineStep_gen kh hb hop] at h; cases h
    | tgen => rw [engineStep_tgen kh hb hop] at h; cases h
    | chk => simp [hop, Op.isGenerate] at ho
    | hchk => simp [hop, Op.isGenerate] at ho
    | tchk => simp [hop, Op.isGenerate] at ho

end Sys2Proof.Machine
end

