-- ==== Sys2Proof/Laws/Bus.lean ====
section
/-! SUPPORT. The register map, what each bus access does, and everything one step of the machine can do to OTPG. -/

namespace Sys2Proof.Machine

/-! ## The register map -/

/-- Every register is found at its own offset (rule R21). -/
theorem regAt_offset (r : Reg) : regAt r.offset = some r := by
  cases r with
  | lo o => cases o <;> decide +kernel
  | hi o => cases o <;> decide +kernel
  | cand k => revert k; decide +kernel
  | code k => revert k; decide +kernel
  | digest k => revert k; decide +kernel
  | key k => revert k; decide +kernel
  | _ => decide +kernel

/-- Only at its own offset. -/
theorem offset_of_regAt {off : Nat} {r : Reg} (h : regAt off = some r) : r.offset = off := by
  simpa using List.find?_some h

theorem Reg.offset_injective {r r' : Reg} (h : r.offset = r'.offset) : r = r' := by
  have h1 := regAt_offset r
  rw [h, regAt_offset] at h1
  exact (Option.some.inj h1).symm

/-- Every register is word-aligned and inside the aperture. -/
theorem busLegal_offset (r : Reg) : busLegal r.offset 4 = true := by
  cases r with
  | lo o => cases o <;> decide
  | hi o => cases o <;> decide
  | cand k => revert k; decide
  | code k => revert k; decide
  | digest k => revert k; decide
  | key k => revert k; decide
  | _ => decide

theorem busLegal_iff (off bytes : Nat) : busLegal off bytes = true ↔ bytes = 4 ∧ off % 4 = 0 ∧ off < 4096 := by
  simp only [busLegal, Bool.and_eq_true, beq_iff_eq, decide_eq_true_eq, and_assoc]
  rfl

/-- Whether an offset has a register, of the 1024 legal ones, by computation. -/
theorem regAt_word_eq_none (k : Fin 1024)
    (h : k.val = 5 ∨ k.val = 23 ∨ (28 ≤ k.val ∧ k.val ≤ 63) ∨ (80 ≤ k.val ∧ k.val ≤ 127) ∨ 160 ≤ k.val) :
    regAt (4 * k.val) = none := by
  revert k
  decide +kernel

/-- The offsets of the operand registers, likewise (the "operand" column of rule R21). -/
theorem regAt_word_operand (k : Fin 1024)
    (h : k.val = 3 ∨ k.val = 4 ∨ (6 ≤ k.val ∧ k.val ≤ 22) ∨ (128 ≤ k.val ∧ k.val ≤ 159)) :
    ((regAt (4 * k.val)).any Reg.isOperand) = true := by
  revert k
  decide +kernel

/-- A register whose writes are ignored whatever BUSY is (access RO in rule R21). -/
def Reg.isReadOnly : Reg → Bool
  | .id | .trunc | .codeVal | .code _ | .digest _ => true
  | .ctrl | .status | .cmd | .keyLen | .lo _ | .hi _ | .candLen | .cand _ | .key _ => false

/-- The offsets of the read-only registers, likewise. -/
theorem regAt_word_readOnly (k : Fin 1024)
    (h : k.val = 0 ∨ (24 ≤ k.val ∧ k.val ≤ 27) ∨ (64 ≤ k.val ∧ k.val ≤ 79)) :
    ((regAt (4 * k.val)).any Reg.isReadOnly) = true := by
  revert k
  decide +kernel

/-! ## Accesses -/

theorem busRead_reg (d : Device) (r : Reg) : busRead d r.offset 4 = .data (d.readReg r) := by
  simp [busRead, busLegal_offset, regAt_offset]

theorem busRead_illegal (d : Device) {off bytes : Nat} (h : busLegal off bytes = false) :
    busRead d off bytes = .busError := by
  simp [busRead, h]

/-- Reading depends on the device through the registers' values alone. -/
theorem busRead_congr {d e : Device} {off : Nat} (h : ∀ r : Reg, r.offset = off → d.readReg r = e.readReg r) (bytes : Nat) :
    busRead d off bytes = busRead e off bytes := by
  unfold busRead
  cases hr : regAt off with
  | none => rfl
  | some r => simp only [h r (offset_of_regAt hr)]

theorem busWrite_reg (r : Reg) (v : Word) (s : State) :
    busWrite r.offset 4 v s = writeRegister r v (s.respond .ack) := by
  simp [busWrite, busLegal_offset, regAt_offset]

theorem busWrite_illegal {off bytes : Nat} (h : busLegal off bytes = false) (v : Word) (s : State) :
    busWrite off bytes v s = .next (s.respond .busError) := by
  simp [busWrite, h]

theorem busWrite_reserved {off bytes : Nat} (h : busLegal off bytes = true) (hr : regAt off = none) (v : Word) (s : State) :
    busWrite off bytes v s = .next (s.respond .ack) := by
  simp [busWrite, h, hr]

/-- A write to a register that an operand's BUSY does not stop and that is not CMD stores by the register's access type. -/
theorem writeRegister_stores {r : Reg} {s : State} (hb : (r.isOperand && s.dev.status.busy) = false) (hc : r ≠ .cmd)
    (v : Word) : writeRegister r v s = .next (s.withDev (s.dev.writeReg r v)) := by
  unfold writeRegister
  rw [if_neg (by simp [hb])]
  cases r <;> first | rfl | exact absurd rfl hc

/-- A write to a read-only register changes nothing, whether or not BUSY = 1. -/
theorem writeRegister_readOnly {r : Reg} (h : r.isReadOnly = true) (v : Word) (s : State) :
    writeRegister r v s = .next s := by
  cases r <;> first | rfl | simp [Reg.isReadOnly] at h

/-- A stored write to a register other than CTRL and STATUS leaves STATUS, the hidden state and the results. -/
theorem writeReg_keeps {d : Device} (r : Reg) (v : Word) (hr : r ≠ .ctrl) (hs : r ≠ .status) :
    (d.writeReg r v).status = d.status ∧ (d.writeReg r v).engine = d.engine
      ∧ (d.writeReg r v).trunc = d.trunc ∧ (d.writeReg r v).codeVal = d.codeVal
      ∧ (d.writeReg r v).code = d.code ∧ (d.writeReg r v).digest = d.digest := by
  cases r with
  | ctrl => exact absurd rfl hr
  | status => exact absurd rfl hs
  | lo o => cases o <;> exact ⟨rfl, rfl, rfl, rfl, rfl, rfl⟩
  | hi o => cases o <;> exact ⟨rfl, rfl, rfl, rfl, rfl, rfl⟩
  | key k => and_intros <;> simp only [Device.writeReg]
  | cand k => and_intros <;> simp only [Device.writeReg]
  | _ => exact ⟨rfl, rfl, rfl, rfl, rfl, rfl⟩

/-- A stored write that leaves a command running changed CTRL.IE or STATUS at most. -/
theorem writeReg_while_busy {d : Device} {r : Reg} {v : Word} (hb : (r.isOperand && d.status.busy) = false) (hc : r ≠ .cmd)
    (h : (d.writeReg r v).status.busy = true) :
    ∃ ie st, d.writeReg r v = { d with ie := ie, status := st } ∧ d.status.busy = true := by
  by_cases h1 : r = .ctrl
  · subst h1
    simp only [Device.writeReg, Device.writeCtrl] at h ⊢
    split at h
    · cases h
    · rw [if_neg ‹_›]; exact ⟨_, _, rfl, h⟩
  · by_cases h2 : r = .status
    · subst h2
      exact ⟨_, _, rfl, h⟩
    · have hbd : d.status.busy = true := by rwa [(writeReg_keeps r v h1 h2).1] at h
      have ho : r.isOperand = false := by simpa [hbd] using hb
      refine ⟨d.ie, d.status, ?_, hbd⟩
      cases r with
      | ctrl => exact absurd rfl h1
      | status => exact absurd rfl h2
      | id => rfl
      | trunc => rfl
      | codeVal => rfl
      | code k => rfl
      | digest k => rfl
      | _ => simp [Reg.isOperand] at ho

theorem writeRegister_ignored {r : Reg} {s : State} (hr : r.isOperand = true) (hb : s.dev.status.busy = true) (v : Word) :
    writeRegister r v s = .next (s.withDev s.dev.ignoreWrite) := by
  simp [writeRegister, hr, hb]

theorem writeRegister_cmd {s : State} (hb : s.dev.status.busy = false) (v : Word) :
    writeRegister .cmd v s = issueWord v s := by
  simp [writeRegister, hb]

theorem issueWord_instr {w : Word} {i : Instr} (h : decode w = .instr i) (s : State) :
    issueWord w s = exec i (s.withDev (s.dev.storeCmd w)) := by
  simp [issueWord, h]

/-- The issue of a word that decodes. -/
theorem issueWord_decoded {w : Word} {i : Instr} (h : decode w = .instr i) (s : State) :
    issueWord w s = .next (s.withDev ((s.dev.storeCmd w).issue i.op i.fields (setupOf i.op))) := by
  rw [issueWord_instr h, exec_eq]
  rfl

theorem issueWord_rejected {w : Word} {r : DecodeReject} (h : decode w = .rejected r) (s : State) :
    issueWord w s = .next (s.withDev { s.dev with cmd := w, status := s.dev.status.rejected .invalidCommand }) := by
  simp only [issueWord, h]
  rfl

/-! ## Everything a step can do -/

/-- The moves of OTPG: what one step of the machine can make of it. -/
inductive Move (kh : KeyedHash) (d : Device) : Device → Prop where
  /-- a read, a rejected access, a write to a reserved offset, or nothing to do -/
  | stay : Move kh d d
  | engine : Move kh d (engineStep kh d)
  | reset : Move kh d Device.reset
  /-- an operand write while BUSY = 1 -/
  | ignored (hb : d.status.busy = true) : Move kh d d.ignoreWrite
  /-- a write of CMD while BUSY = 0 that decodes -/
  | issued (w : Word) (i : Instr) (hb : d.status.busy = false) (hd : decode w = .instr i) :
      Move kh d ((d.storeCmd w).issue i.op i.fields (setupOf i.op))
  /-- a write of CMD while BUSY = 0 that does not -/
  | noCommand (w : Word) (hb : d.status.busy = false) :
      Move kh d { d with cmd := w, status := d.status.rejected .invalidCommand }
  /-- any other register write -/
  | wrote (r : Reg) (v : Word) (hb : (r.isOperand && d.status.busy) = false) (hc : r ≠ .cmd) :
      Move kh d (d.writeReg r v)

/-- An issued word always answers a next state. -/
theorem issueWord_next (w : Word) (s : State) : ∃ e, issueWord w s = .next (s.withDev e) := by
  cases h : decode w with
  | instr i => exact ⟨_, issueWord_decoded h s⟩
  | rejected r => exact ⟨_, issueWord_rejected h s⟩

/-- A register write always answers a next state, and moves only OTPG. -/
theorem writeRegister_move (kh : KeyedHash) (r : Reg) (v : Word) (s : State) :
    ∃ e, writeRegister r v s = .next (s.withDev e) ∧ Move kh s.dev e := by
  by_cases hb : (r.isOperand && s.dev.status.busy) = true
  · have hb' := Bool.and_eq_true_iff.mp hb
    exact ⟨_, writeRegister_ignored hb'.1 hb'.2 v, .ignored hb'.2⟩
  · by_cases hc : r = .cmd
    · subst hc
      have hb' : s.dev.status.busy = false := by simpa [Reg.isOperand] using hb
      rw [writeRegister_cmd hb']
      cases h : decode v with
      | instr i => exact ⟨_, issueWord_decoded h s, .issued v i hb' h⟩
      | rejected j => exact ⟨_, issueWord_rejected h s, .noCommand v hb'⟩
    · exact ⟨_, writeRegister_stores (by simpa using hb) hc v, .wrote r v (by simpa using hb) hc⟩

/-- A bus write always answers a next state, and moves only OTPG and the responses. -/
theorem busWrite_move (kh : KeyedHash) (off bytes : Nat) (v : Word) (s : State) :
    ∃ e r, busWrite off bytes v s = .next ((s.respond r).withDev e) ∧ Move kh s.dev e := by
  cases hl : busLegal off bytes with
  | false => exact ⟨_, _, busWrite_illegal hl v s, .stay⟩
  | true =>
    cases hr : regAt off with
    | none => exact ⟨_, _, busWrite_reserved hl hr v s, .stay⟩
    | some r =>
      obtain ⟨e, he, hm⟩ := writeRegister_move kh r v (s.respond .ack)
      exact ⟨e, .ack, by simpa [busWrite, hl, hr] using he, hm⟩

theorem hostTurn_nil {s : State} (h : s.pending = []) : hostTurn s = .next s := by
  simp [hostTurn, h]

theorem hostTurn_rd {s : State} {off bytes : Nat} {rest : List HostAction} (h : s.pending = .rd off bytes :: rest) :
    hostTurn s = .next ((s.withPending rest).respond (busRead s.dev off bytes)) := by
  simp [hostTurn, h]

theorem hostTurn_wr {s : State} {off bytes : Nat} {v : Word} {rest : List HostAction}
    (h : s.pending = .wr off bytes v :: rest) : hostTurn s = busWrite off bytes v (s.withPending rest) := by
  simp [hostTurn, h]

theorem hostTurn_poll {s : State} {rest : List HostAction} (h : s.pending = .poll :: rest) :
    hostTurn s = .next ((s.withPending (if s.dev.status.busy then s.pending else rest)).respond
      (busRead s.dev Reg.status.offset 4)) := by
  simp only [hostTurn, h]
  split <;> simp [State.withPending, State.respond, h]

/-- A host turn always answers a next state. -/
theorem hostTurn_move (kh : KeyedHash) (s : State) :
    ∃ t, hostTurn s = .next t ∧ t.turns = s.turns ∧ Move kh s.dev t.dev := by
  cases hp : s.pending with
  | nil => exact ⟨s, hostTurn_nil hp, rfl, .stay⟩
  | cons a rest =>
    cases a with
    | rd off bytes => exact ⟨_, hostTurn_rd hp, rfl, .stay⟩
    | poll => exact ⟨_, hostTurn_poll hp, rfl, .stay⟩
    | wr off bytes v =>
      obtain ⟨e, r, he, hm⟩ := busWrite_move kh off bytes v (s.withPending rest)
      exact ⟨_, (hostTurn_wr hp).trans he, rfl, hm⟩

/-- Every step of the machine answers a next state, and moves OTPG by one of the moves. -/
theorem stepWith_move (kh : KeyedHash) (s : State) : ∃ t, stepWith kh s = .next t ∧ Move kh s.dev t.dev := by
  unfold stepWith runTurn
  cases s.nextTurn with
  | host =>
    obtain ⟨t, ht, -, hm⟩ := hostTurn_move kh s.popTurn
    exact ⟨t, ht, hm⟩
  | engine => exact ⟨_, rfl, .engine⟩
  | reset => exact ⟨_, rfl, .reset⟩

/-- The turn of the engine is one engine step, and nothing else (rules R27, R70). -/
theorem stepWith_engine (kh : KeyedHash) {s : State} (h : s.nextTurn = .engine) :
    stepWith kh s = .next (s.popTurn.withDev (engineStep kh s.dev)) := by
  rw [stepWith, h]
  rfl

/-- The turn of the reset input (rule R191). -/
theorem stepWith_reset (kh : KeyedHash) {s : State} (h : s.nextTurn = .reset) :
    stepWith kh s = .next (s.popTurn.withDev Device.reset) := by
  rw [stepWith, h]
  rfl

/-- The host's turn is its next action, on the state with the turn taken off (rule R70). -/
theorem stepWith_host (kh : KeyedHash) {s : State} (h : s.nextTurn = .host) : stepWith kh s = hostTurn s.popTurn := by
  rw [stepWith, h]
  rfl

/-- What a step that answered `t` did to OTPG. -/
theorem move_of_step {s t : State} (h : step s = .next t) : Move Config.kh s.dev t.dev := by
  obtain ⟨u, hu, hm⟩ := stepWith_move Config.kh s
  rw [step, hu] at h
  cases h
  exact hm

end Sys2Proof.Machine
end

