-- ==== Sys2Proof/Laws/PerInstr.lean ====
section
/-! SUPPORT. What holds of every command as syntax, one lemma per constructor: the fields of its word, and when it is legal. -/

/-- The encoder puts RSV, OPC and the four fields where rule R81 says. -/
def Sys2Proof.Laws.EncodedFields.Statement (i : Sys2Proof.Instr) : Prop :=
  (Sys2Proof.encode i).extractLsb' 12 20 = 0
    ∧ (Sys2Proof.encode i).extractLsb' 0 4 = i.op.opc
    ∧ (Sys2Proof.encode i).extractLsb' 4 2 = i.fields.alg.bits
    ∧ (Sys2Proof.encode i).getLsbD 6 = i.fields.vt
    ∧ (Sys2Proof.encode i).getLsbD 7 = i.fields.ainc
    ∧ (Sys2Proof.encode i).extractLsb' 8 4 = i.fields.len

/-- Rule R89: what makes a command a legal encoding. -/
def Sys2Proof.Laws.Legality.Statement (i : Sys2Proof.Instr) : Prop :=
  i.wellFormed = true ↔ i.fields.alg ≠ .reserved ∧ (i.op.isGenerate = true → i.fields.len.toNat ≤ 8)

namespace Sys2Proof.Laws.EncodedFields

/-- The common argument. -/
theorem of_fields (i : Sys2Proof.Instr) : Statement i := by
  obtain ⟨hr, ho, hf⟩ := Sys2Proof.encode_fields i
  refine ⟨hr, ho, ?_, ?_, ?_, ?_⟩ <;> rw [← hf] <;> simp [Sys2Proof.fieldsOfWord]

theorem gen (f : Sys2Proof.CmdFields) : Statement (.gen f) := of_fields _
theorem chk (f : Sys2Proof.CmdFields) : Statement (.chk f) := of_fields _
theorem hchk (f : Sys2Proof.CmdFields) : Statement (.hchk f) := of_fields _
theorem tgen (f : Sys2Proof.CmdFields) : Statement (.tgen f) := of_fields _
theorem tchk (f : Sys2Proof.CmdFields) : Statement (.tchk f) := of_fields _

end Sys2Proof.Laws.EncodedFields

namespace Sys2Proof.Laws.Legality

/-- The common argument. -/
theorem of_checks (i : Sys2Proof.Instr) : Statement i := by
  rw [Statement, Sys2Proof.Instr.wellFormed, Bool.and_eq_true, Bool.or_eq_true, Sys2Proof.CmdFields.algLegal_iff,
    Sys2Proof.CmdFields.lenLegal_iff]
  cases i.op.isGenerate <;> simp

theorem gen (f : Sys2Proof.CmdFields) : Statement (.gen f) := of_checks _
theorem chk (f : Sys2Proof.CmdFields) : Statement (.chk f) := of_checks _
theorem hchk (f : Sys2Proof.CmdFields) : Statement (.hchk f) := of_checks _
theorem tgen (f : Sys2Proof.CmdFields) : Statement (.tgen f) := of_checks _
theorem tchk (f : Sys2Proof.CmdFields) : Statement (.tchk f) := of_checks _

end Sys2Proof.Laws.Legality
end

