-- ==== Sys2Proof/Tests/Slice0.lean ====
section
/-! SUPPORT. The model's own tests, their expected values from spec/95_test_vectors.md and spec/30_encoding.md R92, and one
witness for every statement that has hypotheses. -/

namespace Sys2Proof.Machine

/-! ## Well-formedness: one ill-formed command for each check -/

theorem test_wf_refuses_reserved_alg_gen : (Instr.gen { alg := .reserved, len := 6 }).wellFormed = false := by decide
theorem test_wf_refuses_reserved_alg_chk : (Instr.chk { alg := .reserved }).wellFormed = false := by decide
theorem test_wf_refuses_reserved_alg_hchk : (Instr.hchk { alg := .reserved }).wellFormed = false := by decide
theorem test_wf_refuses_reserved_alg_tgen : (Instr.tgen { alg := .reserved, len := 8 }).wellFormed = false := by decide
theorem test_wf_refuses_reserved_alg_tchk : (Instr.tchk { alg := .reserved }).wellFormed = false := by decide
theorem test_wf_refuses_len9_gen : (Instr.gen { len := 9 }).wellFormed = false := by decide
theorem test_wf_refuses_len9_tgen : (Instr.tgen { len := 9 }).wellFormed = false := by decide
/-- LEN is ignored by the checks (R88). -/
theorem test_wf_accepts_len15_chk : (Instr.chk { len := 15 }).wellFormed = true := by decide

/-! ## Decoding: words written out bit by bit from the table of R81 (bit 31 first) -/

theorem test_decode_gen :
    decode 0b00000000000000000000_0110_1_0_00_0001#32 = .instr (.gen { ainc := true, len := 6 }) := by decide
theorem test_decode_chk :
    decode 0b00000000000000000000_0000_0_1_00_0010#32 = .instr (.chk { vt := true }) := by decide
theorem test_decode_hchk :
    decode 0b00000000000000000000_0000_0_0_10_0011#32 = .instr (.hchk { alg := .sha512 }) := by decide
theorem test_decode_tgen :
    decode 0b00000000000000000000_1000_0_0_01_0100#32 = .instr (.tgen { alg := .sha256, len := 8 }) := by decide
theorem test_decode_tchk :
    decode 0b00000000000000000000_0000_0_1_01_0101#32 = .instr (.tchk { alg := .sha256, vt := true }) := by decide
/-- ALG = 3 and LEN = 9 still decode: the issue reports them (R91). -/
theorem test_decode_illegal_fields :
    decode 0x00000931#32 = .instr (.gen { alg := .reserved, len := 9 }) := by decide
theorem test_decode_rejects_bit12 : decode 0x00001601#32 = .rejected .reservedBits := by decide
theorem test_decode_rejects_opc0 : decode 0#32 = .rejected .reservedOpcode := by decide
theorem test_decode_rejects_opc6 : decode 6#32 = .rejected .reservedOpcode := by decide
theorem test_encode_example : encode (.tchk { alg := .sha256, vt := true }) = 0x00000055#32 := by decide
theorem test_table_word : decodeTableWord 32 0x681 = some (.gen { ainc := true, len := 6 }) := by decide
theorem test_table_word_reserved : decodeTableWord 32 0x80000001 = none := by decide

/-! ## A keyed hash with the pinned digests, and small states -/

/-- The digests of spec/95_test_vectors.md, zeros elsewhere. -/
def tableKh : KeyedHash := fun alg key msg =>
  match khVectors.find? fun v =>
    decide (v.alg = alg) && decide (v.key = key) && decide (counterMessage v.counter = msg) with
  | some v => padTo (digestLen alg) (beBytes (digestLen alg) v.digest)
  | none => padTo (digestLen alg) []

/-- After reset, the key K20 loaded. -/
def devK20 : Device := { Device.reset with key := padTo 128 k20, keyLen := 20 }

/-- "254676", the code of counter 5. -/
def cand5 : List Byte := [0x32, 0x35, 0x34, 0x36, 0x37, 0x36]

/-- K20 with the candidate "254676" and the range 0..9 (the example of R139). -/
def devChk : Device := { devK20 with cand := padTo 8 cand5, candLen := 6, start := 0, count := 10 }

/-- K20 with the candidate "94287082", TIMESTAMP 29 and tolerances of 30 s (the example of R144). -/
def devTchk : Device :=
  { devK20 with
    cand := padTo 8 [0x39, 0x34, 0x32, 0x38, 0x37, 0x30, 0x38, 0x32], candLen := 8, timestamp := 29, below := 30, above := 30 }

/-- The device a command's issue leaves. -/
def issued (i : Instr) (d : Device) : Device :=
  match exec i (State.reset.withDev d) with
  | .next t => t.dev
  | .fault _ => d
  | .refused _ => d

/-- The device the issue of a word leaves. -/
def issuedWord (w : Word) (d : Device) : Device :=
  match issueWord w (State.reset.withDev d) with
  | .next t => t.dev
  | .fault _ => d
  | .refused _ => d

/-- The machine with one host action to perform now. -/
def hostState (d : Device) (a : HostAction) : State := { dev := d, pending := [a], turns := [.host], responses := [] }

theorem test_key_bytes : devK20.keyBytes = k20 := by decide +kernel

/-! ## GEN and TGEN (tables 2.2, 2.3, 1.3) -/

theorem test_gen_example :
    let d := engineStep tableKh (issued (.gen { len := 6 }) devK20)
    (d.readReg .trunc, d.readReg .codeVal, d.readReg (.code 0), d.readReg (.code 1), d.readReg (.digest 4), d.counter)
      = (0x4C93CF18, 755224, 0x37353532, 0x32340000, 0xB7CDE4B0, 0) := by decide +kernel

theorem test_gen_ainc_wraps :
    let d := engineStep tableKh (issued (.gen { ainc := true, len := 6 }) { devK20 with counter := 0xFFFFFFFFFFFFFFFF })
    (d.readReg (.code 0), d.readReg (.code 1), d.counter, d.status.word) = (0x30393434, 0x35310000, 0, 2) := by
  decide +kernel

theorem test_tgen_example :
    let d := engineStep tableKh (issued (.tgen { len := 8 }) { devK20 with timestamp := 59 })
    (d.readReg (.code 0), d.readReg (.code 1), d.counter) = (0x39343238, 0x37303832, 0) := by decide +kernel

theorem test_tgen_sha512 :
    let d := engineStep tableKh (issued (.tgen { alg := .sha512, len := 8 })
      { devK20 with key := padTo 128 k64, keyLen := 64, timestamp := 59 })
    (d.readReg (.code 0), d.readReg (.code 1), d.readReg (.digest 15)) = (0x39303639, 0x33393336, 0x0796DF28) := by
  decide +kernel

/-! ## The checks (tables 2.5 to 2.7) -/

/-- Counter 5 of the range 0..9 matches. -/
theorem test_chk_scan_step :
    let d := issued (.chk {}) devChk
    let e := engineStep tableKh { d with engine := { d.engine with scanI := 5 } }
    (d.engine.scanN, e.engine.acc, e.engine.scanI, e.status.busy) = (10, true, 6, true) := by decide +kernel

/-- The seventh step of the variable-time check completes it. -/
theorem test_chk_vt_completes :
    let d := issued (.chk { vt := true }) devChk
    (engineStep tableKh { d with engine := { d.engine with scanI := 6, acc := true } }).status.word = 0xA := by
  decide +kernel

theorem test_hchk_window_wraps :
    let d := issued (.hchk {}) { devChk with below := 1, above := 1 }
    (d.engine.scanBase, d.engine.scanN) = (0xFFFFFFFFFFFFFFFF, 2) := by decide +kernel

/-- COUNTER + ABOVE is not in the window: with ABOVE = 0 neither is COUNTER. -/
theorem test_hchk_window_half_open :
    let d := issued (.hchk {}) { devChk with counter := 5, below := 2 }
    (d.engine.scanBase, d.engine.scanN) = (3, 2) := by decide +kernel

/-- The row that tells the inclusive end: counters 0 and 1. -/
theorem test_tchk_window_inclusive :
    let d := issued (.tchk {}) devTchk
    (d.engine.scanBase, d.engine.scanN) = (0, 2) := by decide +kernel

theorem test_tchk_window_wraps_empty :
    (issued (.tchk {}) { devTchk with timestamp := 0xFFFFFFFFFFFFFFF6, below := 0 }).engine.scanN = 0 := by
  decide +kernel

/-! ## Errors, in the order of R164 (table 2.2, 2.3) -/

theorem test_errors :
    [(issuedWord 0x901 devK20).status.errcode, (issuedWord 0x631 devK20).status.errcode,
     (issuedWord 0x931 devK20).status.errcode, (issuedWord 0x1601 devK20).status.errcode,
     (issuedWord 0x601 { devK20 with keyLen := 129 }).status.errcode,
     (issuedWord 0x931 { devK20 with keyLen := 129 }).status.errcode,
     (issuedWord 0x904 { devK20 with period := 0 }).status.errcode,
     (issuedWord 0x002 { devK20 with candLen := 9 }).status.errcode]
    = [.invalidLength, .invalidAlgorithm, .invalidAlgorithm, .invalidCommand, .invalidKeylen, .invalidAlgorithm,
       .invalidPeriod, .invalidLength] := by decide +kernel

/-- ERRCODE as STATUS reads it: the numbers of R161 in bits 11:8, ERR in bit 2. -/
theorem test_errcode_numbers :
    [busRead (issuedWord 0x901 devK20) 0x008 4, busRead (issuedWord 0x631 devK20) 0x008 4,
     busRead (issuedWord 0x1601 devK20) 0x008 4, busRead (issuedWord 0x804 { devK20 with period := 0 }) 0x008 4,
     busRead (issuedWord 0x601 { devK20 with keyLen := 129 }) 0x008 4]
    = [.data 0x104, .data 0x204, .data 0x304, .data 0x404, .data 0x504] := by decide +kernel

/-! ## The comparator (table 2.4) -/

/-- "855224" differs from "755224" in its first byte. -/
theorem test_comparator_first_byte :
    let S : List Byte := [0x37, 0x35, 0x35, 0x32, 0x32, 0x34]
    let c : List Byte := [0x38, 0x35, 0x35, 0x32, 0x32, 0x34, 0x39, 0x39]
    (matchCt c S 6, matchVt c S 6) = (⟨false, 8⟩, ⟨false, 1⟩) := by decide

/-- Bytes at and above CAND_LEN are ignored. -/
theorem test_comparator_ignores_rest :
    let S : List Byte := [0x37, 0x35, 0x35, 0x32, 0x32, 0x34]
    (matchCt (S ++ [0x39, 0x39]) S 6, matchVt (S ++ [0x39, 0x39]) S 6) = (⟨true, 8⟩, ⟨true, 6⟩) := by decide

/-! ## The bus (table 2.8) -/

theorem test_read_id : busRead Device.reset 0x000 4 = .data 0x4F545047 := by decide +kernel
theorem test_read_period : busRead Device.reset 0x028 4 = .data 0x1E := by decide +kernel
theorem test_read_misaligned : busRead Device.reset 0x052 4 = .busError := by decide
theorem test_read_reserved : busRead Device.reset 0x070 4 = .data 0 := by decide +kernel

theorem test_write_while_busy :
    ∃ t, busWrite 0x018 4 7 (State.reset.withDev (issued (.chk {}) devChk)) = .next t
      ∧ t.dev.counter = 0 ∧ t.dev.status.word = 0x11 := ⟨_, rfl, by decide +kernel, by decide +kernel⟩

theorem test_soft_reset_while_busy :
    ∃ t, busWrite 0x004 4 3 (State.reset.withDev (issued (.chk {}) devChk)) = .next t ∧ t.dev = Device.reset :=
  ⟨_, rfl, by decide +kernel⟩

/-! ## The assembler (R92, R93, and program P1 of section 3) -/

theorem test_asm_key :
    asmKey k20 = [.wr 0x200 4 0x31323334, .wr 0x204 4 0x35363738, .wr 0x208 4 0x39303132, .wr 0x20C 4 0x33343536,
      .wr 0x210 4 0x37383930, .wr 0x010 4 0x14] := by decide +kernel

theorem test_asm_seq :
    asmSeq (L := 6) (start := 0) (n := 1) = [.wr 0x018 4 0, .wr 0x01C 4 0, .wr 0x00C 4 0x681, .poll, .rd 0x068 4,
      .rd 0x06C 4] := by decide +kernel

theorem test_asm_check_range :
    asmCheckRange (first := -1) (last := 1) = [.wr 0x040 4 0xFFFFFFFF, .wr 0x044 4 0xFFFFFFFF, .wr 0x048 4 2,
      .wr 0x04C 4 0, .wr 0x00C 4 2] := by decide +kernel

/-! ## The step -/

/-- The command word placed by `withFetchWord` runs as the first thing after reset. -/
theorem test_fetch_word_after_reset :
    ∃ t, step (State.reset.withFetchWord 32 0x601) = .next t ∧ t.dev.cmd = 0x601 ∧ t.dev.status.busy = true :=
  ⟨_, rfl, by decide +kernel, by decide +kernel⟩

/-- POLL stays while BUSY = 1 and goes when it reads 0. -/
theorem test_poll :
    (∃ t, step (hostState (issued (.chk {}) devChk) .poll) = .next t ∧ t.pending = [.poll])
    ∧ ∃ t, step (hostState devChk .poll) = .next t ∧ t.pending = [] := ⟨⟨_, rfl, rfl⟩, _, rfl, rfl⟩

/-- The padding of a key to an HMAC block (R9). -/
theorem test_hmac_key_block (H : HashFn) : (hmacKeyBlock H .sha1 [0x31]).toList = 0x31 :: List.replicate 63 0 := by
  rw [hmacKeyBlock, if_pos (by decide), padTo_toList _ _ (by decide)]
  rfl

/-! ## Witnesses: one for every statement that has hypotheses, under the statement's name -/

/-- The machine around a device, whose next turn is the host's. -/
def around (d : Device) : State := State.reset.withDev d

theorem accepts_gen : devK20.Accepts .gen { ainc := true, len := 6 } .sha1 6 := ⟨rfl, by decide, by decide, by decide⟩
theorem accepts_tgen : devK20.Accepts .tgen { alg := .sha512, len := 8 } .sha512 8 := ⟨rfl, by decide, by decide, by decide⟩
theorem accepts_chk : devChk.Accepts .chk {} .sha1 6 := ⟨rfl, by decide, by decide, by decide⟩
theorem accepts_chk_vt : devChk.Accepts .chk { vt := true } .sha1 6 := ⟨rfl, by decide, by decide, by decide⟩
theorem accepts_hchk : devChk.Accepts .hchk {} .sha1 6 := ⟨rfl, by decide, by decide, by decide⟩
theorem accepts_tchk : devTchk.Accepts .tchk {} .sha1 8 := ⟨rfl, by decide, by decide, by decide⟩

theorem witness_EncodeOfDecode : decode 0x00000681#32 = .instr (.gen { ainc := true, len := 6 }) := by decide

/-- Each side of each equivalence is met by a word and missed by another. -/
theorem witness_DecodeAgreesWithOpcodeTable :
    0x00000FF1#32 &&& 0xFFFFF00F#32 = 0x00000001#32 ∧ 0x00001001#32 &&& 0xFFFFF00F#32 ≠ 0x00000001#32 := by decide

theorem witness_StepIssuesDecodedCommand :
    let s := hostState devK20 (.wr 0x00C 4 0x601)
    s.nextTurn = .host ∧ s.pending = .wr 0x00C 4 0x601 :: [] ∧ s.dev.status.busy = false
      ∧ decode 0x601#32 = .instr (.gen { len := 6 }) := ⟨rfl, rfl, rfl, by decide⟩

/-- A word that does not decode. -/
theorem witness_StepIssuesDecodedCommand_reserved :
    let s := hostState devK20 (.wr 0x00C 4 0x1601)
    s.nextTurn = .host ∧ s.pending = .wr 0x00C 4 0x1601 :: [] ∧ s.dev.status.busy = false
      ∧ decode 0x1601#32 = .rejected .reservedBits := ⟨rfl, rfl, rfl, by decide⟩

theorem witness_FetchWordRunsNext : decodeTableWord 32 0x601 = some (.gen { len := 6 }) := by decide

theorem witness_ReservedWordIsInvalidCommand_rsv : (0x00001601#32).extractLsb' 12 20 ≠ 0 := by decide
theorem witness_ReservedWordIsInvalidCommand_opc : ((0x00000006#32).extractLsb' 0 4).toNat ∉ [1, 2, 3, 4, 5] := by decide

theorem witness_RejectedIssueChangesOnlyCmdAndStatus :
    devK20.status.busy = false ∧ (issuedWord 0x901 devK20).status.err = true
      ∧ (issuedWord 0x801 devK20).status.err = false := by decide +kernel

theorem witness_CheckErrorIgnoresModeAndWindow :
    let i := Instr.chk { vt := true }
    let j := Instr.chk {}
    let s := around { devChk with candLen := 9 }
    let u := around { devChk with candLen := 9, count := 0 }
    i.op = j.op ∧ i.op.isGenerate = false ∧ i.fields.alg = j.fields.alg ∧ s.dev.keyLen = u.dev.keyLen
      ∧ s.dev.period = u.dev.period ∧ s.dev.candLen = u.dev.candLen := ⟨rfl, rfl, rfl, rfl, rfl, rfl⟩

theorem witness_UnusedFieldsChangeNothing_gen :
    (Instr.gen { len := 6 }).op = (Instr.gen { vt := true, len := 6 }).op
      ∧ CmdFields.sameUsed .gen { len := 6 } { vt := true, len := 6 } :=
  ⟨rfl, rfl, fun _ => rfl, fun _ => rfl, nofun⟩

theorem witness_UnusedFieldsChangeNothing_chk :
    (Instr.chk {}).op = (Instr.chk { ainc := true, len := 15 }).op
      ∧ CmdFields.sameUsed .chk {} { ainc := true, len := 15 } := ⟨rfl, rfl, nofun, nofun, fun _ => rfl⟩

theorem witness_GenRunsInOneEngineStep : (around devK20).dev.Accepts .gen { ainc := true, len := 6 } .sha1 6 := accepts_gen

/-- Both sides of each bound on a byte's index, at the bound. -/
theorem witness_GenRunsInOneEngineStep_bytes :
    (5 : Fin 8).val < (6 : Fin 9).val ∧ (6 : Fin 9).val ≤ (6 : Fin 8).val
      ∧ (19 : Fin 64).val < digestLen .sha1 ∧ digestLen .sha1 ≤ (20 : Fin 64).val
      ∧ (63 : Fin 64).val < digestLen .sha512 := by decide

theorem witness_TgenRunsInOneEngineStep :
    (around devK20).dev.Accepts .tgen { alg := .sha512, len := 8 } .sha512 8 := accepts_tgen

theorem witness_GenSequenceWalksTheCounters :
    (around devK20).dev.Accepts .gen { ainc := true, len := 6 } .sha1 6
      ∧ ({ ainc := true, len := 6 } : CmdFields).ainc = true := ⟨accepts_gen, rfl⟩

/-- GEN at COUNTER = 1 and TGEN at TIMESTAMP = 59. -/
theorem witness_ResultsDependOnlyOnOperands :
    let s := around { devK20 with counter := 1 }
    let u := around { devK20 with timestamp := 59 }
    s.dev.Accepts .gen { len := 8 } .sha1 8 ∧ u.dev.Accepts .tgen { len := 8 } .sha1 8 ∧ s.dev.keyBytes = u.dev.keyBytes
      ∧ (if Op.gen.isTotp then totpCounter s.dev.timestamp s.dev.period else s.dev.counter)
        = (if Op.tgen.isTotp then totpCounter u.dev.timestamp u.dev.period else u.dev.counter) :=
  ⟨⟨rfl, by decide, by decide, by decide⟩, ⟨rfl, by decide, by decide, by decide⟩, rfl, by decide⟩

theorem witness_TruncatedValueIs31Bits : 20 ≤ (beBytes 20 0xcc93cf18508d94934c64b65d8ba7667fb7cde4b0).length := by decide

theorem witness_Rfc4226CodesUnderPinnedHash : Pinned tableKh := by unfold Pinned; decide +kernel

theorem witness_ComparatorsComputeMatch : (8 : Nat) ≤ 8 := by decide

theorem witness_CheckIssueStartsTheScan_chk :
    (Instr.chk {}).op.isGenerate = false ∧ (around devChk).dev.Accepts .chk {} .sha1 6 := ⟨rfl, accepts_chk⟩
theorem witness_CheckIssueStartsTheScan_hchk :
    (Instr.hchk {}).op.isGenerate = false ∧ (around devChk).dev.Accepts .hchk {} .sha1 6 := ⟨rfl, accepts_hchk⟩
theorem witness_CheckIssueStartsTheScan_tchk :
    (Instr.tchk {}).op.isGenerate = false ∧ (around devTchk).dev.Accepts .tchk {} .sha1 8 := ⟨rfl, accepts_tchk⟩

theorem witness_TotpWindowIsClosedInterval :
    (30 : DWord) ≠ 0 ∧ windowCounter (totpWindow 29 30 30 30).base 1 = 1 := by decide

/-- A wrapped end that meets the clamped start: by R144's pseudocode s_ts = e_ts = 0, so s_c = e_c = 0 and SCAN_N = 1
(log 8). -/
theorem witness_TotpWindowIsClosedInterval_wrapped :
    let top : DWord := 0xFFFFFFFFFFFFFFFF
    (30 : DWord) ≠ 0 ∧ top.toNat + (1 : DWord).toNat = 2 ^ 64
      ∧ totpWindow top 30 top 1 = ⟨0, 1⟩ := by decide

theorem witness_TotpDefaultWindowIsThreeCounters :
    30 ≤ (30 : DWord).toNat ∧ (30 : DWord).toNat + 30 < 2 ^ 64 := by decide

theorem witness_TotpWrappedEndEmptiesTheWindow :
    let ts : DWord := 0xFFFFFFFFFFFFFFF6
    2 ^ 64 ≤ ts.toNat + (30 : DWord).toNat
      ∧ (ts.toNat + (30 : DWord).toNat - 2 ^ 64) / (30 : DWord).toNat
        < (ts.toNat - (0 : DWord).toNat) / (30 : DWord).toNat := by decide

theorem witness_TotpWrappedEndEmptiesTheWindow_check :
    let d := { devTchk with timestamp := 0xFFFFFFFFFFFFFFF6, below := 0 }
    d.Accepts .tchk {} .sha1 8 ∧ 2 ^ 64 ≤ d.timestamp.toNat + d.above.toNat
      ∧ (d.timestamp.toNat + d.above.toNat - 2 ^ 64) / d.period.toNat
        < (d.timestamp.toNat - d.below.toNat) / d.period.toNat := ⟨⟨rfl, by decide, by decide, by decide⟩, by decide⟩

theorem witness_CheckRangeOverIntegerBounds : (1 : Int) - (-1) < 2 ^ 64 ∧ (3 : Int) - 5 < 2 ^ 64 := by decide

/-- The candidate is the code of counter 5 of the window 0..9. -/
theorem witness_ConstantTimeCheckCompletes :
    (Instr.chk {}).op.isGenerate = false ∧ (around devChk).dev.Accepts .chk {} .sha1 6
      ∧ (Instr.chk {}).fields.vt = false
      ∧ matchAt tableKh .sha1 devChk.keyBytes devChk.candBytes (devChk.window .chk).base 6 5 = true :=
  ⟨rfl, accepts_chk, rfl, by decide +kernel⟩

/-- The first hit is at index 5. -/
theorem witness_VariableTimeCheckCompletes_hit :
    let hit := matchAt tableKh .sha1 devChk.keyBytes devChk.candBytes (devChk.window .chk).base 6
    (around devChk).dev.Accepts .chk { vt := true } .sha1 6 ∧ 5 < (devChk.window .chk).count ∧ hit 5 = true
      ∧ ∀ j < 5, hit j = false := ⟨accepts_chk_vt, by decide +kernel⟩

/-- No hit in the window 0..4. -/
theorem witness_VariableTimeCheckCompletes_miss :
    let d := { devChk with count := 5 }
    d.Accepts .chk { vt := true } .sha1 6 ∧ ∀ k < (d.window .chk).count,
      matchAt tableKh .sha1 d.keyBytes d.candBytes (d.window .chk).base 6 k = false :=
  ⟨⟨rfl, by decide, by decide, by decide⟩, by decide +kernel⟩

theorem witness_ModesGiveTheSameMatch :
    let i := Instr.chk {}
    let j := Instr.chk { vt := true }
    (8 : Nat) ≤ 8 ∧ i.op.isGenerate = false ∧ i.op = j.op ∧ i.fields.alg = j.fields.alg ∧ i.fields.vt = false
      ∧ j.fields.vt = true ∧ (around devChk).dev.Accepts i.op i.fields .sha1 6 :=
  ⟨by decide, rfl, rfl, rfl, rfl, rfl, accepts_chk⟩

/-- A check with the key K20 and one with the empty key. -/
theorem witness_ConstantTimeRunsLookAlike :
    let d := issued (.chk {}) devChk
    let e := issued (.chk {}) { devChk with keyLen := 0, candLen := 8 }
    d.status.busy = true ∧ e.status.busy = true ∧ d.engine.op.isGenerate = false ∧ e.engine.op.isGenerate = false
      ∧ d.engine.vt = false ∧ e.engine.vt = false ∧ d.engine.scanBase = e.engine.scanBase
      ∧ d.engine.scanN = e.engine.scanN ∧ d.engine.scanI = e.engine.scanI := by decide +kernel

theorem witness_ConstantTimeScanHashesTheWholeWindow :
    let d := issued (.chk {}) devChk
    d.status.busy = true ∧ d.engine.op.isGenerate = false ∧ d.engine.vt = false ∧ d.engine.scanI = 0
      ∧ d.engine.scanN = 10 := by decide +kernel

theorem witness_EmptyWindowCompletesAtOnce :
    let d := { devChk with count := 0 }
    d.Accepts .chk {} .sha1 6 ∧ (d.window .chk).count = 0 := ⟨⟨rfl, by decide, by decide, by decide⟩, by decide⟩

/-- Both ends of 9..15. -/
theorem witness_CandidateLengthCornerCases_long :
    hashOf (Instr.tchk {}).fields.alg = some .sha1 ∧ devTchk.keyLen.toNat ≤ 128 ∧ devTchk.period ≠ 0
      ∧ 9 ≤ ({ devTchk with candLen := 9 } : Device).candLen.toNat
      ∧ 9 ≤ ({ devTchk with candLen := 15 } : Device).candLen.toNat := by decide

theorem witness_CandidateLengthCornerCases_empty :
    let d := { devTchk with candLen := 0 }
    hashOf (Instr.tchk {}).fields.alg = some .sha1 ∧ d.keyLen.toNat ≤ 128 ∧ d.period ≠ 0 ∧ d.candLen = 0
      ∧ (d.window .tchk).count ≠ 0 := by decide

theorem witness_ChecksWriteNoOperandRegister :
    (Instr.hchk {}).op.isGenerate = false ∧ (around devChk).dev.Accepts .hchk {} .sha1 6 := ⟨rfl, accepts_hchk⟩

theorem witness_ChecksExposeOnlyMatch :
    (Instr.chk {}).op.isGenerate = false ∧ (Instr.chk {}).fields.vt = false
      ∧ (around devChk).dev.Accepts .chk {} .sha1 6 := ⟨rfl, rfl, accepts_chk⟩

/-- An idle OTPG, and both ends of KEY and CAND. -/
theorem witness_KeyWriteStoresBigEndian :
    (around devK20).dev.status.busy = false
      ∧ (0x200 + 4 * (0 : Fin 32).val, 0x200 + 4 * (31 : Fin 32).val) = (0x200, 0x27C)
      ∧ (0x054 + 4 * (0 : Fin 2).val, 0x054 + 4 * (1 : Fin 2).val) = (0x054, 0x058) := by decide

theorem witness_OperandWriteReadsBack :
    (around devK20).dev.status.busy = false ∧ (Reg.key 31).isOperand = true ∧ Reg.key 31 ≠ .cmd
      ∧ Reg.candLen.isOperand = true ∧ (Reg.hi .count).isOperand = true := by decide

theorem witness_IllegalAccessChangesNothing_write :
    let s := hostState devK20 (.wr 0x050 2 7)
    s.nextTurn = .host ∧ (2 : Nat) ≠ 4 ∧ s.pending = .wr 0x050 2 7 :: [] := ⟨rfl, by decide, rfl⟩
theorem witness_IllegalAccessChangesNothing_read :
    let s := hostState devK20 (.rd 0x052 4)
    s.nextTurn = .host ∧ 0x052 % 4 ≠ 0 ∧ s.pending = .rd 0x052 4 :: [] := ⟨rfl, by decide, rfl⟩
theorem witness_IllegalAccessChangesNothing_outside :
    let s := hostState devK20 (.rd 4096 4)
    s.nextTurn = .host ∧ 4096 ≤ 4096 ∧ s.pending = .rd 4096 4 :: [] := ⟨rfl, by decide, rfl⟩

/-- Both ends of each reserved range. -/
theorem witness_ReservedOffsetReadsZeroIgnoresWrites :
    ∀ off ∈ [0x014, 0x05C, 0x070, 0x0FC, 0x140, 0x1FC, 0x280, 0xFFC], off % 4 = 0 ∧
      (off = 0x014 ∨ off = 0x05C ∨ (0x070 ≤ off ∧ off ≤ 0x0FC) ∨ (0x140 ≤ off ∧ off ≤ 0x1FC)
        ∨ (0x280 ≤ off ∧ off ≤ 0xFFC)) := by decide

/-- Both ends of each read-only range. -/
theorem witness_ReservedOffsetReadsZeroIgnoresWrites_readOnly :
    ∀ off ∈ [0x000, 0x060, 0x06C, 0x100, 0x13C], off % 4 = 0 ∧
      (off = 0x000 ∨ (0x060 ≤ off ∧ off ≤ 0x06C) ∨ (0x100 ≤ off ∧ off ≤ 0x13C)) := by decide

theorem witness_ReadsHaveNoSideEffect :
    let s := hostState devK20 (.rd 0x200 4)
    s.nextTurn = .host ∧ s.pending = .rd 0x200 4 :: [] := ⟨rfl, rfl⟩

/-- A running check, and both ends of each operand range. -/
theorem witness_BusyOperandWriteOnlySetsWign :
    (issued (.chk {}) devChk).status.busy = true
      ∧ ∀ off ∈ [0x00C, 0x010, 0x018, 0x058, 0x200, 0x27C], off % 4 = 0 ∧
        (off = 0x00C ∨ off = 0x010 ∨ (0x018 ≤ off ∧ off ≤ 0x058) ∨ (0x200 ≤ off ∧ off ≤ 0x27C)) := by decide +kernel

theorem witness_IrqFollowsDoneAndErr : (0x6#32).getLsbD 1 = true ∧ (0x6#32).getLsbD 2 = true := by decide

theorem witness_Wr64LoadsTheOperand :
    let s : State := { around devK20 with pending := asmWr64 .count 0x0123456789ABCDEF }
    s.dev.status.busy = false ∧ s.turns = [] ∧ s.pending = asmWr64 .count 0x0123456789ABCDEF := ⟨rfl, rfl, rfl⟩

/-- GEN with AINC changes COUNTER. -/
theorem witness_EngineWritesNoOperandButCounter :
    let d := issued (.gen { ainc := true, len := 6 }) devK20
    (engineStep tableKh d).counter ≠ d.counter := by decide +kernel

/-- A check's issue that zeroes TRUNC. -/
theorem witness_ResultRegistersChangeOnlyBy :
    let s := hostState { devChk with trunc := 1 } (.wr 0x00C 4 2)
    ∃ t, step s = .next t ∧ (t.dev.trunc, t.dev.codeVal, t.dev.code, t.dev.digest)
      ≠ (s.dev.trunc, s.dev.codeVal, s.dev.code, s.dev.digest) := ⟨_, rfl, by decide +kernel⟩

theorem witness_SoftResetIsHardwareReset : (0x3#32).getLsbD 0 = true := by decide

theorem witness_IdleMachineWaits :
    State.reset.dev.status.busy = false ∧ State.reset.pending = [] ∧ State.reset.turns = [] := by decide

/-- The engine's turn, listed or chosen by BUSY = 1. -/
theorem witness_IdleMachineWaits_engine :
    ({ around (issuedWord 2 devChk) with turns := [.engine] } : State).nextTurn = .engine
      ∧ (around (issuedWord 2 devChk)).turns = [] ∧ (around (issuedWord 2 devChk)).nextTurn = .engine := by
  decide +kernel

theorem witness_IdleMachineWaits_reset_write_poll :
    ({ around devChk with turns := [.reset] } : State).nextTurn = .reset
      ∧ (hostState devChk (.wr 0x018 4 7)).nextTurn = .host
      ∧ (hostState devChk (.wr 0x018 4 7)).pending = .wr 0x018 4 7 :: []
      ∧ (hostState devChk .poll).nextTurn = .host ∧ (hostState devChk .poll).pending = .poll :: [] :=
  ⟨rfl, rfl, rfl, rfl, rfl⟩

theorem inv_devChk : (around devChk).dev.Inv := by
  constructor <;> decide

/-- The issue of a check from a state with the invariant. -/
theorem witness_InvariantKeptByEveryStep :
    let s := hostState devChk (.wr 0x00C 4 2)
    s.dev.Inv ∧ ∃ t, step s = .next t ∧ t.dev.status.busy = true := ⟨inv_devChk, _, rfl, by decide +kernel⟩

/-- A running CHK, and an operand write it survives. -/
theorem witness_RunningCommandHeldByEveryStep :
    let s := hostState (issuedWord 2 devChk) (.wr 0x018 4 7)
    s.dev.status.busy = true ∧ s.dev.Held ∧ ∃ t, step s = .next t := by
  refine ⟨by decide +kernel, fun _ => ⟨.chk {}, by decide +kernel, ?_⟩, _, rfl⟩
  exact ⟨rfl, ⟨rfl, by decide, by decide, by decide⟩, rfl, rfl, nofun, nofun, fun _ => rfl⟩

/-- A step from BUSY = 1 to BUSY = 1: an operand write that is ignored. -/
theorem witness_RunningCommandHeldByEveryStep_busy :
    let s := hostState (issuedWord 2 devChk) (.wr 0x200 4 7)
    ∃ t, step s = .next t ∧ s.dev.status.busy = true ∧ t.dev.status.busy = true :=
  ⟨_, rfl, by decide +kernel, by decide +kernel⟩

/-- A running CHK with a counter still to evaluate. -/
theorem witness_ScanAccumulatorRightAfterEveryStep :
    let s : State := { around (issuedWord 2 devChk) with turns := [.engine] }
    s.dev.status.busy = true ∧ s.dev.ScanRight Config.kh ∧ ∃ t, step s = .next t := by
  refine ⟨by decide +kernel, fun _ _ => ⟨⟨nofun, ?_⟩, rfl, rfl, rfl, rfl⟩, _, rfl⟩
  rintro ⟨i, hi, -⟩
  exact absurd hi (Nat.not_lt_zero i)

theorem witness_AcceptedCommandCompletes :
    (issued (.chk {}) devChk).Inv ∧ (issued (.chk {}) devChk).status.busy = true := by
  refine ⟨?_, by decide +kernel⟩
  constructor <;> decide +kernel

end Sys2Proof.Machine
end

/-! ## The codes of table 1.1 of spec/95_test_vectors.md -/

namespace Sys2Proof.Machine

/-- Under a keyed hash with the pinned digests, the code of a pinned vector is what rules R103 to R106 make of its digest:
the hash itself is no longer in it. -/
theorem otpCode_of_pinned {kh : KeyedHash} (hp : Pinned kh) {v : KhVector} (hv : v ∈ khVectors) (L : Fin 9) :
    otpCode kh v.alg v.key v.counter L = codeOfDigest (beBytes (digestLen v.alg) v.digest) L := by
  rw [otpCode, hp v hv]

/-- The rows of table 1.1. -/
def rfc4226Vectors : List KhVector := khVectors.take 10

/-- The rows hash with SHA1 and K20, at the counters 0 to 9 in order. -/
theorem rfc4226Vectors_map {α : Type} (f : HashAlg → List Byte → Int → α) :
    rfc4226Vectors.map (fun v => f v.alg v.key v.counter) = (List.range 10).map fun c : Nat => f .sha1 k20 c :=
  rfl

/-- The truncation of each row's digest gives the source's code. -/
theorem rfc4226Vectors_codes :
    rfc4226Vectors.map (fun v => (codeOfDigest (beBytes (digestLen v.alg) v.digest) 6).value)
      = [755224, 287082, 359152, 969429, 338314, 254676, 287922, 162583, 399871, 520489] := by
  decide

/-- Settles O21: the ten codes are those of the rows of table 1.1, whose digests the premise fixes. -/
theorem rfc4226CodesUnderPinnedHash : Obligations.Rfc4226CodesUnderPinnedHash := by
  intro kh hp
  calc (List.range 10).map (fun c => (otpCode kh .sha1 k20 (c : Nat) 6).value)
      = rfc4226Vectors.map fun v => (otpCode kh v.alg v.key v.counter 6).value :=
        (rfc4226Vectors_map fun alg key c => (otpCode kh alg key c 6).value).symm
    _ = rfc4226Vectors.map fun v => (codeOfDigest (beBytes (digestLen v.alg) v.digest) 6).value :=
        List.map_congr_left fun v hv => congrArg CodeResult.value (otpCode_of_pinned hp (List.mem_of_mem_take hv) 6)
    _ = _ := rfc4226Vectors_codes

end Sys2Proof.Machine

/-! ## The invariant of OTPG's registers (O57)

`Device.Inv` speaks of three separate parts of OTPG: the flags of STATUS, the scan indices, and CODE_VAL. Each update keeps
the part it writes, and leaves the other two. -/

namespace Sys2Proof.Machine

/-- The clauses of `Device.Inv` about STATUS (R28, R29, R30). -/
structure Status.Consistent (st : Status) : Prop where
  notBoth : ¬(st.done = true ∧ st.err = true)
  codeWithErr : st.err = false ↔ st.errcode = .none
  busyCleared : st.busy = true → st.done = false ∧ st.err = false ∧ st.matched = false

/-- The clauses of `Device.Inv` about the scan (R46, R48). -/
def Engine.ScanBounded (e : Engine) : Prop := e.scanI ≤ e.scanN ∧ e.scanN < 2 ^ 65

/-- `Device.Inv` by its three parts. -/
theorem Device.inv_iff (d : Device) :
    d.Inv ↔ d.status.Consistent ∧ d.engine.ScanBounded ∧ d.codeVal.toNat < 10 ^ 8 := by
  constructor
  · rintro ⟨hboth, hcode, hbusy, hi, hn, hv⟩
    exact ⟨⟨hboth, hcode, hbusy⟩, ⟨hi, hn⟩, hv⟩
  · rintro ⟨⟨hboth, hcode, hbusy⟩, ⟨hi, hn⟩, hv⟩
    exact ⟨hboth, hcode, hbusy, hi, hn, hv⟩

/-! ### STATUS -/

theorem Status.consistent_reset : Status.reset.Consistent := by
  constructor <;> decide

theorem Status.consistent_issued (st : Status) : st.issued.Consistent := by
  constructor <;> simp [Status.issued]

theorem Status.consistent_rejected {st : Status} (hb : st.busy = false) {e : ErrCode} (he : e ≠ .none) :
    (st.rejected e).Consistent := by
  constructor <;> simp [Status.rejected, hb, he]

/-- Clearing ERR clears ERRCODE with it (R26, R29). -/
theorem Status.Consistent.clear {st : Status} (h : st.Consistent) (v : Word) : (st.clear v).Consistent := by
  obtain ⟨hboth, hcode, hbusy⟩ := h
  constructor
  case notBoth =>
    intro hc
    simp only [Status.clear, Bool.and_eq_true] at hc
    exact hboth ⟨hc.1.1, hc.2.1⟩
  case codeWithErr =>
    simp only [Status.clear]
    cases v.getLsbD 2 with
    | false => simpa using hcode
    | true => simp
  case busyCleared =>
    intro hb
    obtain ⟨hd, he, hm⟩ := hbusy hb
    simp [Status.clear, hd, he, hm]

theorem Status.Consistent.setWign {st : Status} (h : st.Consistent) : { st with wign := true }.Consistent :=
  ⟨h.notBoth, h.codeWithErr, h.busyCleared⟩

/-- Completion leaves ERR clear, as it was while BUSY = 1. -/
theorem Status.Consistent.complete {st : Status} (h : st.Consistent) (hb : st.busy = true) (m : Bool) :
    { st with busy := false, done := true, matched := m }.Consistent := by
  obtain ⟨-, he, -⟩ := h.busyCleared hb
  exact ⟨by simp [he], h.codeWithErr, nofun⟩

/-! ### The scan and CODE_VAL -/

/-- A window has fewer than 2^65 counters (R46). -/
theorem Device.window_count_lt (d : Device) (op : Op) : (d.window op).count < 2 ^ 65 := by
  cases op with
  | gen => exact Nat.two_pow_pos 65
  | tgen => exact Nat.two_pow_pos 65
  | chk => exact Nat.lt_trans d.count.isLt (by decide)
  | hchk =>
    have hb := d.below.isLt
    have ha := d.above.isLt
    show d.below.toNat + d.above.toNat < 2 ^ 65
    omega
  | tchk => exact Nat.lt_of_le_of_lt (totpWindow_count_le _ _ _ _) (by decide)

/-- A scan step moves SCAN_I only while it is below SCAN_N (R134). -/
theorem Engine.ScanBounded.scanned {d : Device} (h : d.engine.ScanBounded) (hs : d.engine.scanning = true) (m : Bool) :
    (d.scanned m).engine.ScanBounded :=
  ⟨((scanning_iff _).mp hs).1, h.2⟩

/-- The value GEN and TGEN write to CODE_VAL has at most eight digits (R43, R105). -/
theorem engineCode_value_lt (kh : KeyedHash) (d : Device) :
    (BitVec.ofNat 27 (d.engineCode kh).value).toNat < 10 ^ 8 := by
  rw [BitVec.toNat_ofNat]
  exact Nat.lt_of_le_of_lt (Nat.mod_le _ _) (otpCode_value_lt kh _ _ _ _)

/-! ### The moves of OTPG -/

theorem Device.inv_reset : Device.reset.Inv :=
  (Device.inv_iff _).mpr ⟨Status.consistent_reset, ⟨by decide, by decide⟩, by decide⟩

theorem Device.Inv.engineStep {d : Device} (h : d.Inv) (kh : KeyedHash) : (engineStep kh d).Inv := by
  obtain ⟨hst, hscan, hval⟩ := (Device.inv_iff d).mp h
  cases hb : d.status.busy with
  | false => rwa [engineStep_idle kh hb]
  | true =>
    have hgen := engineCode_value_lt kh d
    have hdone := hst.complete hb
    rw [Device.inv_iff]
    cases ho : d.engine.op with
    | gen =>
      rw [engineStep_gen kh hb ho]
      exact ⟨hdone _, hscan, hgen⟩
    | tgen =>
      rw [engineStep_tgen kh hb ho]
      exact ⟨hdone _, hscan, hgen⟩
    | _ =>
      rw [engineStep_check kh hb (by rw [ho]; rfl)]
      cases hs : d.engine.scanning with
      | true =>
        rw [scanStep_scanning kh hs]
        exact ⟨hst, hscan.scanned hs _, hval⟩
      | false =>
        rw [scanStep_complete kh hs]
        exact ⟨hdone _, hscan, hval⟩

theorem Device.Inv.ignoreWrite {d : Device} (h : d.Inv) : d.ignoreWrite.Inv := by
  obtain ⟨hst, hscan, hval⟩ := (Device.inv_iff d).mp h
  exact (Device.inv_iff _).mpr ⟨hst.setWign, hscan, hval⟩

theorem Device.Inv.reject {d : Device} (h : d.Inv) (hb : d.status.busy = false) {e : ErrCode} (he : e ≠ .none) (w : Word) :
    { d with cmd := w, status := d.status.rejected e }.Inv := by
  obtain ⟨-, hscan, hval⟩ := (Device.inv_iff d).mp h
  exact (Device.inv_iff _).mpr ⟨Status.consistent_rejected hb he, hscan, hval⟩

/-- An issue with BUSY = 0: a check starts its scan at 0 with CODE_VAL cleared, GEN and TGEN leave both as they were. -/
theorem Device.Inv.issue {d : Device} (h : d.Inv) (hb : d.status.busy = false) (op : Op) (f : CmdFields) :
    (d.issue op f (setupOf op)).Inv := by
  rcases accepts_or_error d op f with ⟨alg, L, ha⟩ | ⟨e, he, hne⟩
  · obtain ⟨-, hscan, hval⟩ := (Device.inv_iff d).mp h
    have hst := d.status.consistent_issued
    rw [Device.inv_iff]
    cases op with
    | gen =>
      rw [setupOf, issue_gen ha]
      exact ⟨hst, hscan, hval⟩
    | tgen =>
      rw [setupOf, issue_tgen ha]
      exact ⟨hst, hscan, hval⟩
    | _ =>
      rw [issue_check rfl ha]
      exact ⟨hst, ⟨Nat.zero_le _, d.window_count_lt _⟩, Nat.pow_pos (by decide)⟩
  · rw [issue_of_error he]
    exact h.reject hb hne d.cmd

theorem Device.Inv.storeCmd {d : Device} (h : d.Inv) (w : Word) : (d.storeCmd w).Inv :=
  (Device.inv_iff _).mpr ((Device.inv_iff d).mp h)

theorem Device.Inv.writeCtrl {d : Device} (h : d.Inv) (v : Word) : (d.writeCtrl v).Inv := by
  unfold Device.writeCtrl
  split
  · exact Device.inv_reset
  · exact (Device.inv_iff _).mpr ((Device.inv_iff d).mp h)

theorem Device.Inv.writeReg {d : Device} (h : d.Inv) (r : Reg) (v : Word) : (d.writeReg r v).Inv := by
  obtain ⟨hst, hscan, hval⟩ := (Device.inv_iff d).mp h
  by_cases hctrl : r = .ctrl
  · subst hctrl
    exact h.writeCtrl v
  by_cases hstatus : r = .status
  · subst hstatus
    exact (Device.inv_iff _).mpr ⟨hst.clear v, hscan, hval⟩
  obtain ⟨hs, he, -, hc, -, -⟩ := writeReg_keeps (d := d) r v hctrl hstatus
  rw [Device.inv_iff, hs, he, hc]
  exact ⟨hst, hscan, hval⟩

/-- Every move of OTPG keeps the invariant, under every keyed hash. -/
theorem Move.keeps_inv {kh : KeyedHash} {d e : Device} (hm : Move kh d e) (h : d.Inv) : e.Inv := by
  cases hm with
  | stay => exact h
  | engine => exact h.engineStep kh
  | reset => exact Device.inv_reset
  | ignored => exact h.ignoreWrite
  | issued w i hb => exact (h.storeCmd w).issue hb i.op i.fields
  | noCommand w hb => exact h.reject hb (by decide) w
  | wrote r v => exact h.writeReg r v

/-- Settles O57: a step moves OTPG by one of the moves, and each move keeps the invariant. -/
theorem invariantKeptByEveryStep : Obligations.InvariantKeptByEveryStep :=
  fun _ _ h hstep => (move_of_step hstep).keeps_inv h

end Sys2Proof.Machine

/-! ## The register map: what a read shows and what a write stores (O38, O39, O40) -/

namespace Sys2Proof.Machine

/-- Zero bits put above a vector are its zero extension. -/
theorem zero_append_eq_setWidth (m : Nat) {n : Nat} (x : BitVec n) : 0#m ++ x = x.setWidth (m + n) := by
  rw [BitVec.setWidth_eq_append (Nat.le_add_left n m)]
  exact BitVec.eq_of_toNat_eq (by simp)

/-- The offsets of R21's map are word-aligned and inside the aperture (R60, R61). -/
theorem Reg.offset_aligned (r : Reg) : r.offset % 4 = 0 ∧ r.offset < 4096 :=
  ((busLegal_iff r.offset 4).mp (busLegal_offset r)).2

/-- Settles O38: the map lists the offsets, each is looked up by `regAt_offset`, and a read there is `busRead_reg` of its register. -/
theorem registerMapFindsEveryRegister : Obligations.RegisterMapFindsEveryRegister := by
  refine ⟨fun r => ⟨regAt_offset r, r.offset_aligned⟩, ⟨rfl, rfl, rfl, rfl, rfl, rfl, rfl, rfl⟩,
    ⟨rfl, rfl, rfl, rfl, rfl, rfl, rfl, fun _ => rfl⟩, fun _ => ⟨rfl, rfl⟩, fun _ => rfl, fun _ => rfl, fun d => ?_⟩
  simp only [zero_append_eq_setWidth]
  exact ⟨busRead_reg d .id, busRead_reg d .cmd, busRead_reg d .keyLen,
    busRead_reg d (.lo .counter), busRead_reg d (.hi .counter),
    busRead_reg d (.lo .timestamp), busRead_reg d (.hi .timestamp),
    busRead_reg d (.lo .period), busRead_reg d (.hi .period),
    busRead_reg d (.lo .below), busRead_reg d (.hi .below),
    busRead_reg d (.lo .above), busRead_reg d (.hi .above),
    busRead_reg d (.lo .start), busRead_reg d (.hi .start),
    busRead_reg d (.lo .count), busRead_reg d (.hi .count),
    busRead_reg d .candLen, busRead_reg d .trunc, busRead_reg d .codeVal⟩

/-- No register's value depends on KEY: KEY_k itself reads 0 (R33). -/
theorem readReg_key (d : Device) (key : Vector Byte 128) (r : Reg) : { d with key := key }.readReg r = d.readReg r := by
  cases r with
  | lo o => cases o <;> rfl
  | hi o => cases o <;> rfl
  | _ => rfl

/-- Settles O39: a read answers from the registers' values, and none of them depends on KEY. -/
theorem keyIsNeverReadBack : Obligations.KeyIsNeverReadBack :=
  fun d key => ⟨fun _ bytes => busRead_congr (fun r _ => readReg_key d key r) bytes, fun k => busRead_reg d (.key k)⟩

/-- A bus write that BUSY does not stop, to a register other than CMD, stores by the register's access type. -/
theorem busWrite_stores {r : Reg} {s : State} (hb : (r.isOperand && s.dev.status.busy) = false) (hc : r ≠ .cmd) (v : Word) :
    busWrite r.offset 4 v s = .next ((s.respond .ack).withDev (s.dev.writeReg r v)) := by
  rw [busWrite_reg, writeRegister_stores (s := s.respond .ack) hb hc]
  rfl

/-- A buffer register's read shows byte `j` of the buffer at R65's bits of register `j div 4`. -/
theorem busRead_buffer {n : Nat} {d : Device} {b : Vector Byte n} {r : Reg} {j : Nat} (hr : d.readReg r = packWord b (j / 4))
    (h : 4 * (j / 4) + 3 < n) :
    ∃ w, busRead d r.offset 4 = .data w ∧ w.extractLsb' (24 - 8 * (j % 4)) 8 = b[j] :=
  ⟨_, (busRead_reg d r).trans (congrArg _ hr), wordByte_packWord b j h⟩

/-- Settles O40: KEY and CAND are written by `storeWord`; CAND, CODE and DIGEST are read by `packWord`. -/
theorem keyWriteStoresBigEndian : Obligations.KeyWriteStoresBigEndian := by
  refine ⟨fun d k w j => storeWord_getElem d.key k w j j.isLt, ?_, ?_, fun d => ⟨?_, ?_, ?_⟩⟩
  · intro s k w hb
    exact ⟨_, busWrite_stores (r := .key k) (by simp [hb]) nofun w, rfl,
      fun j => storeWord_getElem s.dev.key k w j j.isLt⟩
  · intro s k w hb
    exact ⟨_, busWrite_stores (r := .cand k) (by simp [hb]) nofun w, rfl,
      fun j => storeWord_getElem s.dev.cand k w j j.isLt⟩
  · exact fun j => busRead_buffer (r := .cand ⟨j / 4, by omega⟩) rfl (by omega)
  · exact fun j => busRead_buffer (r := .code ⟨j / 4, by omega⟩) rfl (by omega)
  · exact fun j => busRead_buffer (r := .digest ⟨j / 4, by omega⟩) rfl (by omega)

end Sys2Proof.Machine

/-! ## STATUS and IRQ (O46, O47, O48) -/

namespace Sys2Proof.Machine

/-- The flags stand at bits 0 to 4 of STATUS (R26). -/
theorem Status.word_flags (st : Status) :
    st.word.getLsbD 0 = st.busy ∧ st.word.getLsbD 1 = st.done ∧ st.word.getLsbD 2 = st.err
      ∧ st.word.getLsbD 3 = st.matched ∧ st.word.getLsbD 4 = st.wign := by
  and_intros <;> simp only [Status.word, BitVec.getLsbD_append] <;> simp

/-- ERRCODE stands at bits 11:8 (R26). -/
theorem Status.word_errcode (st : Status) : st.word.extractLsb' 8 4 = st.errcode.code := by
  refine BitVec.eq_of_getLsbD_eq fun k hk => ?_
  simp only [Status.word, BitVec.getLsbD_extractLsb', BitVec.getLsbD_append]
  interval_cases k <;> simp

/-- The bits R26 leaves reserved read 0. -/
theorem Status.word_reserved (st : Status) : st.word.extractLsb' 5 3 = 0 ∧ st.word.extractLsb' 12 20 = 0 := by
  constructor <;> refine BitVec.eq_of_getLsbD_eq fun k hk => ?_
  all_goals
    simp only [Status.word, BitVec.getLsbD_extractLsb', BitVec.getLsbD_append]
    interval_cases k <;> simp

/-- Settles O46: the word is read field by field. -/
theorem statusWordLayout : Obligations.StatusWordLayout := by
  refine ⟨fun d => ?_, fun d => d.status.word_errcode⟩
  obtain ⟨hbusy, hdone, herr, hmatch, hwign⟩ := d.status.word_flags
  obtain ⟨hlow, hhigh⟩ := d.status.word_reserved
  refine ⟨busRead_reg d .status, hbusy, hdone, herr, hmatch, hwign, hlow, ?_, hhigh⟩
  rw [Status.word_errcode]
  cases d.status.errcode <;> rfl

/-- The STATUS word after a write of `v` (R26): bits 1, 2 and 4 cleared where `v` has them, ERRCODE cleared with bit 2. -/
theorem Status.word_clear (st : Status) (v : Word) :
    (st.clear v).word = st.word &&& ~~~(v &&& 0x16#32)
      &&& (if v.getLsbD 2 then 0xFFFFF0FF#32 else 0xFFFFFFFF#32) := by
  refine BitVec.eq_of_getLsbD_eq fun k hk => ?_
  simp only [Status.word, Status.clear, BitVec.getLsbD_and, BitVec.getLsbD_not, BitVec.getLsbD_append]
  cases h2 : v.getLsbD 2 with
  | false =>
    have hk2 : v[2] = false := h2
    interval_cases k <;> simp [hk2]
  | true =>
    have hk2 : v[2] = true := h2
    interval_cases k <;> simp [hk2, ErrCode.code]

/-- Settles O47: the write is `clearStatus`, at any BUSY, since STATUS is no operand. -/
theorem statusWriteOneToClear : Obligations.StatusWriteOneToClear :=
  fun s v => ⟨_, busWrite_stores (r := .status) rfl nofun v, rfl, s.dev.status.word_clear v⟩

/-- The issue of a command clears DONE and leaves IE, whether it is accepted or rejected (R91, R163). -/
theorem issue_ie_done (d : Device) (op : Op) (f : CmdFields) :
    (d.issue op f (setupOf op)).ie = d.ie ∧ (d.issue op f (setupOf op)).status.done = false := by
  rcases accepts_or_error d op f with ⟨alg, L, h⟩ | ⟨e, h, -⟩
  · rw [issue_of_accepts h]
    cases op <;> exact ⟨rfl, rfl⟩
  · rw [issue_of_error h]
    exact ⟨rfl, rfl⟩

/-- So does the issue of any word, one that is no command among them (R87). -/
theorem issueWord_ie_done (w : Word) (s : State) :
    ∃ t, issueWord w s = .next t ∧ t.dev.ie = s.dev.ie ∧ t.dev.status.done = false := by
  cases h : decode w with
  | instr i => exact ⟨_, issueWord_decoded h s, issue_ie_done (s.dev.storeCmd w) i.op i.fields⟩
  | rejected r => exact ⟨_, issueWord_rejected h s, rfl, rfl⟩

/-- Settles O48: IRQ is a function of IE, DONE and ERR; the write clears both flags, an issue clears DONE and keeps IE. -/
theorem irqFollowsDoneAndErr : Obligations.IrqFollowsDoneAndErr := by
  refine ⟨fun _ => rfl, fun d v h1 h2 => ?_, fun w s => ?_⟩
  · simp only [Device.irq, Device.clearStatus_fields, h1, h2, Bool.not_true, Bool.and_false, Bool.or_self]
  · obtain ⟨t, ht, hie, hdone⟩ := issueWord_ie_done w s
    exact ⟨t, ht, by rw [Device.irq, hie, hdone, Bool.false_or]⟩

end Sys2Proof.Machine

/-! ## What the engine writes, and whose step it is (O50, O54) -/

namespace Sys2Proof.Machine

/-- The engine writes COUNTER only as a GEN with AINC = 1 completes (R35, R115). -/
theorem engineStep_counter (kh : KeyedHash) (d : Device) :
    (engineStep kh d).counter = d.counter
      ∨ d.status.busy = true ∧ d.engine.op = .gen ∧ d.engine.ainc = true
        ∧ (engineStep kh d).counter = wrap64 (d.engine.ctr.toNat + 1) := by
  cases hb : d.status.busy with
  | false => exact .inl (by rw [engineStep_idle kh hb])
  | true =>
    cases ho : d.engine.op with
    | gen =>
      rw [engineStep_gen kh hb ho]
      cases ha : d.engine.ainc with
      | false => exact .inl rfl
      | true => exact .inr ⟨rfl, rfl, rfl, rfl⟩
    | tgen => exact .inl (by rw [engineStep_tgen kh hb ho])
    | _ =>
      refine .inl ?_
      rw [engineStep_check kh hb (by rw [ho]; rfl)]
      cases hs : d.engine.scanning with
      | false => rw [scanStep_complete kh hs]
      | true => rw [scanStep_scanning kh hs]; rfl

/-- Settles O50: the frame of an engine step, and the one case in which it moves COUNTER. -/
theorem engineWritesNoOperandButCounter : Obligations.EngineWritesNoOperandButCounter :=
  fun kh d => ⟨engineStep_frame kh d, (engineStep_counter kh d).resolve_left⟩

/-- With BUSY = 0, no turn listed and no host action left, OTPG waits (R191). -/
theorem step_waits {s : State} (hb : s.dev.status.busy = false) (hp : s.pending = []) (ht : s.turns = []) :
    step s = .next s := by
  have hturn : s.nextTurn = .host := by simp [State.nextTurn_nil s ht, hb]
  have hpop : s.popTurn = s := by rw [State.popTurn, ht, List.tail_nil, ← ht]
  rw [step, stepWith_host _ hturn, hpop, hostTurn_nil hp]

/-- Settles O54: each clause is the law of its turn, or of the host action at the head. -/
theorem idleMachineWaits : Obligations.IdleMachineWaits := by
  refine ⟨fun kh _ hb => engineRun_idle kh hb, fun _ => step_waits, fun s _ _ => s.nextTurn_cons,
    State.nextTurn_nil, fun _ => stepWith_engine Config.kh, fun _ => stepWith_reset Config.kh, ?_, ?_⟩
  · intro s off bytes v rest hturn hp
    exact (stepWith_host _ hturn).trans (hostTurn_wr (s := s.popTurn) hp)
  · intro s rest hturn hp
    exact (stepWith_host _ hturn).trans (hostTurn_poll (s := s.popTurn) hp)

end Sys2Proof.Machine

/-! ## A running command is held (O58) -/

namespace Sys2Proof.Machine

/-- A device with the fields rewritten that may change while one command runs: CTRL.IE, STATUS, SCAN_I and ACC. -/
def Device.ranOn (d : Device) (ie : Bool) (st : Status) (i : Nat) (a : Bool) : Device :=
  { d with ie := ie, status := st, engine := { d.engine with scanI := i, acc := a } }

/-- A move that leaves a command running either ran beside one, and then wrote CTRL.IE, STATUS, SCAN_I and ACC at most, or
is the issue of a word on an idle OTPG (R67, R73, R91). -/
theorem Move.of_running {kh : KeyedHash} {d e : Device} (hm : Move kh d e) (he : e.status.busy = true) :
    (d.status.busy = true ∧ ∃ ie st i a, e = d.ranOn ie st i a)
    ∨ (d.status.busy = false
      ∧ ∃ w i, decode w = .instr i ∧ e = (d.storeCmd w).issue i.op i.fields (setupOf i.op)) := by
  cases hm with
  | stay => exact .inl ⟨he, _, _, _, _, rfl⟩
  | engine =>
    cases hb : d.status.busy with
    | false => simp [engineStep_idle kh hb, hb] at he
    | true =>
      obtain ⟨-, -, hscan⟩ := engineStep_still_busy kh he hb
      exact .inl ⟨rfl, _, _, _, _, hscan⟩
  | reset => cases he
  | ignored hb => exact .inl ⟨hb, _, _, _, _, rfl⟩
  | issued w i hb hd => exact .inr ⟨hb, w, i, hd, rfl⟩
  | noCommand w hb => exact absurd he (by simp [Status.rejected, hb])
  | wrote r v hb hc =>
    obtain ⟨ie, st, hw, hd⟩ := writeReg_while_busy hb hc he
    exact .inl ⟨hd, ie, st, _, _, hw⟩

/-- `Device.Held` reads neither CTRL.IE, SCAN_I nor ACC, and of STATUS only that a command runs. -/
theorem Device.Held.running {d : Device} (h : d.Held) (hb : d.status.busy = true) (ie : Bool) (st : Status) (i : Nat)
    (a : Bool) : (d.ranOn ie st i a).Held := by
  obtain ⟨c, hd, hop, ⟨halg, hkey, hper, hlen⟩, hvt, hainc, hgen, htgen, hwin⟩ := h hb
  refine fun _ => ⟨c, hd, hop, ⟨halg, hkey, hper, hlen⟩, hvt, hainc, hgen, htgen, fun hc => (hwin hc).trans ?_⟩
  cases c <;> rfl

/-- The issue of the word in CMD on an idle OTPG leaves its command held: accepted, it latches the operands as they are;
rejected, no command runs (R91, R163). -/
theorem Device.held_issue {d : Device} (hb : d.status.busy = false) {c : Instr} (hd : decode d.cmd = .instr c) :
    (d.issue c.op c.fields (setupOf c.op)).Held := by
  rcases accepts_or_error d c.op c.fields with ⟨alg, L, ha⟩ | ⟨e, he, -⟩
  · have ⟨halg, hkey, hper, hlen⟩ := ha
    cases c with
    | gen f =>
      rw [Instr.op, setupOf, issue_gen ha]
      exact fun _ => ⟨.gen f, hd, rfl, ⟨halg, hkey, hper, hlen⟩, rfl, rfl, fun _ => rfl, nofun, nofun⟩
    | tgen f =>
      rw [Instr.op, setupOf, issue_tgen ha]
      exact fun _ => ⟨.tgen f, hd, rfl, ⟨halg, hkey, hper, hlen⟩, rfl, rfl, nofun, fun _ => rfl, nofun⟩
    | _ =>
      rw [issue_check rfl ha]
      exact fun _ => ⟨_, hd, rfl, ⟨halg, hkey, hper, hlen⟩, rfl, rfl, nofun, nofun, fun _ => rfl⟩
  · rw [issue_of_error he]
    intro hbusy
    simp [Status.rejected, hb] at hbusy

/-- Every move of OTPG keeps a running command held, under every keyed hash. -/
theorem Move.keeps_held {kh : KeyedHash} {d e : Device} (hm : Move kh d e) (h : d.Held) : e.Held := by
  intro he
  rcases hm.of_running he with ⟨hb, ie, st, i, a, rfl⟩ | ⟨hb, w, c, hd, rfl⟩
  · exact h.running hb ie st i a he
  · exact Device.held_issue (d := d.storeCmd w) hb hd he

/-- Settles O58: a step is a move; one that leaves a command running writes no operand beside a running command, and is the
issue of the word in CMD otherwise. -/
theorem runningCommandHeldByEveryStep : Obligations.RunningCommandHeldByEveryStep := by
  refine ⟨fun s t h hstep => (move_of_step hstep).keeps_held h, fun s t hstep hs ht => ?_⟩
  rcases (move_of_step hstep).of_running ht with ⟨-, ie, st, i, a, he⟩ | ⟨hidle, -⟩
  · rw [he]
    and_intros <;> rfl
  · simp [hs] at hidle

end Sys2Proof.Machine

/-! ## What the host's next action does (O6, O42, O44) -/

namespace Sys2Proof.Machine

/-- The step of a pending write, on the machine with the action and the turn taken off (R62, R70). -/
theorem step_wr {s : State} (hturn : s.nextTurn = .host) {off bytes : Nat} {v : Word} {rest : List HostAction}
    (hp : s.pending = .wr off bytes v :: rest) : step s = busWrite off bytes v (s.popTurn.withPending rest) :=
  (stepWith_host _ hturn).trans (hostTurn_wr (s := s.popTurn) hp)

/-- The step of a pending read: its response, and nothing of OTPG (R62, R68). -/
theorem step_rd {s : State} (hturn : s.nextTurn = .host) {off bytes : Nat} {rest : List HostAction}
    (hp : s.pending = .rd off bytes :: rest) :
    step s = .next ((s.popTurn.withPending rest).respond (busRead s.dev off bytes)) :=
  (stepWith_host _ hturn).trans (hostTurn_rd (s := s.popTurn) hp)

/-- Settles O6: the write of CMD with BUSY = 0 is the issue of its word. -/
theorem stepIssuesDecodedCommand : Obligations.StepIssuesDecodedCommand := by
  intro s rest w hturn hp hb
  have hissue : step s = issueWord w ((s.popTurn.withPending rest).respond .ack) := by
    rw [step_wr hturn hp]
    exact (busWrite_reg .cmd w _).trans
      (writeRegister_cmd (s := (s.popTurn.withPending rest).respond .ack) hb w)
  exact ⟨hissue, fun i hd => hissue.trans (issueWord_instr hd _)⟩

/-- Settles O42: an access that is not legal is answered by a bus error, read or write. -/
theorem illegalAccessChangesNothing : Obligations.IllegalAccessChangesNothing := by
  intro s off bytes v rest hturn hbad hp
  have hillegal : busLegal off bytes = false := by
    rw [← Bool.not_eq_true, busLegal_iff]
    omega
  rcases hp with hp | hp
  · exact (step_wr hturn hp).trans (busWrite_illegal hillegal v _)
  · rw [step_rd hturn hp, busRead_illegal _ hillegal]
    rfl

/-- Settles O44: the step of a read adds its response alone. -/
theorem readsHaveNoSideEffect : Obligations.ReadsHaveNoSideEffect :=
  fun _ _ _ _ hturn hp => step_rd hturn hp

end Sys2Proof.Machine

/-! ## Writes by range of offsets (O43, O45) -/

namespace Sys2Proof.Machine

/-- An aligned offset of the aperture is one of its 1024 words. -/
theorem exists_word_of_aligned {off : Nat} (ha : off % 4 = 0) (hlt : off < 4096) : ∃ k : Fin 1024, off = 4 * k.val :=
  ⟨⟨off / 4, by omega⟩, (Nat.mul_div_cancel' (Nat.dvd_of_mod_eq_zero ha)).symm⟩

/-- An offset whose register has the property `p` is the offset of a register with that property. -/
theorem exists_reg_of_regAt_any {off : Nat} {p : Reg → Bool} (h : (regAt off).any p = true) :
    ∃ r : Reg, r.offset = off ∧ p r = true := by
  obtain ⟨r, hr, hp⟩ := (Option.any_eq_true p _).mp h
  exact ⟨r, offset_of_regAt hr, hp⟩

theorem busRead_reserved (d : Device) {off bytes : Nat} (h : busLegal off bytes = true) (hr : regAt off = none) :
    busRead d off bytes = .data 0 := by
  simp [busRead, h, hr]

/-- A write to a read-only register is acknowledged and changes nothing of OTPG (R64). -/
theorem busWrite_readOnly {r : Reg} (h : r.isReadOnly = true) (v : Word) (s : State) :
    busWrite r.offset 4 v s = .next (s.respond .ack) :=
  (busWrite_reg r v s).trans (writeRegister_readOnly h v _)

/-- A write to an operand register while BUSY = 1 sets WIGN and changes nothing else (R67). -/
theorem busWrite_ignored {r : Reg} {s : State} (hr : r.isOperand = true) (hb : s.dev.status.busy = true) (v : Word) :
    busWrite r.offset 4 v s = .next ((s.respond .ack).withDev s.dev.ignoreWrite) :=
  (busWrite_reg r v s).trans (writeRegister_ignored (s := s.respond .ack) hr hb v)

/-- Settles O43: no register stands at the reserved offsets, and those of the read-only ranges ignore a write. -/
theorem reservedOffsetReadsZeroIgnoresWrites : Obligations.ReservedOffsetReadsZeroIgnoresWrites := by
  intro s off v halign
  constructor <;> intro hoff
  · obtain ⟨k, rfl⟩ := exists_word_of_aligned halign (by omega)
    have hlegal : busLegal (4 * k.val) 4 = true := (busLegal_iff _ _).mpr ⟨rfl, halign, by omega⟩
    have hnone : regAt (4 * k.val) = none := regAt_word_eq_none k (by omega)
    exact ⟨busRead_reserved _ hlegal hnone, .ack, nofun, busWrite_reserved hlegal hnone v s⟩
  · obtain ⟨k, rfl⟩ := exists_word_of_aligned halign (by omega)
    obtain ⟨r, hr, hro⟩ := exists_reg_of_regAt_any (regAt_word_readOnly k (by omega))
    exact ⟨.ack, nofun, hr ▸ busWrite_readOnly hro v s⟩

/-- Settles O45: the operand ranges hold operand registers; CTRL and STATUS are none, so BUSY does not stop their writes. -/
theorem busyOperandWriteOnlySetsWign : Obligations.BusyOperandWriteOnlySetsWign := by
  intro s off v halign
  refine ⟨fun hb hoff => ?_, busWrite_stores (r := .ctrl) rfl nofun v, busWrite_stores (r := .status) rfl nofun v,
    busRead_reg s.dev .ctrl⟩
  obtain ⟨k, rfl⟩ := exists_word_of_aligned halign (by omega)
  obtain ⟨r, hr, hop⟩ := exists_reg_of_regAt_any (regAt_word_operand k (by omega))
  exact hr ▸ busWrite_ignored hop hb v

end Sys2Proof.Machine

/-! ## What an operand write stores (O41, O49) -/

namespace Sys2Proof.Machine

@[simp] theorem operand_setOperand_same (d : Device) (o : Operand64) (x : DWord) : (d.setOperand o x).operand o = x := by
  cases o <;> rfl

theorem operand_setOperand_ne (d : Device) {o o' : Operand64} (h : o' ≠ o) (x : DWord) :
    (d.setOperand o x).operand o' = d.operand o' := by
  cases o <;> cases o' <;> first | rfl | exact absurd rfl h

@[simp] theorem setOperand_setOperand (d : Device) (o : Operand64) (x y : DWord) :
    (d.setOperand o x).setOperand o y = d.setOperand o y := by
  cases o <;> rfl

@[simp] theorem setOperand_status (d : Device) (o : Operand64) (x : DWord) : (d.setOperand o x).status = d.status := by
  cases o <;> rfl

/-- A new value of a 64-bit operand shows in its LO and HI registers alone. -/
theorem readReg_setOperand_ne (d : Device) {o : Operand64} {r : Reg} (hlo : r ≠ .lo o) (hhi : r ≠ .hi o) (x : DWord) :
    (d.setOperand o x).readReg r = d.readReg r := by
  cases r with
  | lo o' => exact congrArg (BitVec.setWidth 32) (operand_setOperand_ne d (fun h => hlo (congrArg _ h)) x)
  | hi o' => exact congrArg (BitVec.extractLsb' 32 32) (operand_setOperand_ne d (fun h => hhi (congrArg _ h)) x)
  | _ => cases o <;> rfl

/-- New values of KEYLEN, CAND_LEN and CAND show in their own registers alone. -/
theorem readReg_lengths_cand (d : Device) {n : BitVec 8} {m : BitVec 4} {c : Vector Byte 8} {r : Reg}
    (hn : r = .keyLen → n = d.keyLen) (hm : r = .candLen → m = d.candLen)
    (hc : ∀ k, r = .cand k → packWord c k = packWord d.cand k) :
    { d with keyLen := n, candLen := m, cand := c }.readReg r = d.readReg r := by
  cases r with
  | keyLen => exact congrArg (BitVec.setWidth 32) (hn rfl)
  | candLen => exact congrArg (BitVec.setWidth 32) (hm rfl)
  | cand k => exact hc k rfl
  | lo o => cases o <;> rfl
  | hi o => cases o <;> rfl
  | _ => rfl

/-- The part of a written word that an operand register shows afterwards (R33, R34, R40). -/
def Reg.shownPart : Reg → Word → Word
  | .keyLen, v => v &&& 0xFF#32
  | .candLen, v => v &&& 0xF#32
  | .key _, _ => 0
  | _, v => v

/-- Truncation to the low `k` bits and extension back is a mask. -/
theorem setWidth_setWidth_eq_and (v : Word) {k : Nat} (hk : k ≤ 32) :
    (v.setWidth k).setWidth 32 = v &&& BitVec.ofNat 32 (2 ^ k - 1) := by
  have hpos : 0 < 2 ^ k := Nat.two_pow_pos k
  have hle : 2 ^ k ≤ 2 ^ 32 := Nat.pow_le_pow_right (by decide) hk
  have hlow : v.toNat % 2 ^ k < 2 ^ k := Nat.mod_lt _ hpos
  apply BitVec.eq_of_toNat_eq
  rw [BitVec.toNat_setWidth, BitVec.toNat_setWidth, BitVec.toNat_and, BitVec.toNat_ofNat,
    Nat.mod_eq_of_lt (by omega : v.toNat % 2 ^ k < 2 ^ 32), Nat.mod_eq_of_lt (by omega : 2 ^ k - 1 < 2 ^ 32),
    Nat.and_two_pow_sub_one_eq_mod]

/-- An operand register other than CMD shows what was written to it. -/
theorem readReg_writeReg_same (d : Device) {r : Reg} (ho : r.isOperand = true) (hc : r ≠ .cmd) (v : Word) :
    (d.writeReg r v).readReg r = r.shownPart v := by
  cases r with
  | cmd => exact absurd rfl hc
  | keyLen => exact setWidth_setWidth_eq_and v (k := 8) (by decide)
  | candLen => exact setWidth_setWidth_eq_and v (k := 4) (by decide)
  | lo o => simp only [Device.writeReg, Device.readReg, operand_setOperand_same, append_setWidth, Reg.shownPart]
  | hi o => simp only [Device.writeReg, Device.readReg, operand_setOperand_same, append_extractLsb', Reg.shownPart]
  | cand k => exact packWord_storeWord_same d.cand k v (by omega)
  | key k => rfl
  | _ => cases ho

/-- No other register shows it: the other half of a 64-bit operand is put back as it was. -/
theorem readReg_writeReg_ne (d : Device) {r r' : Reg} (ho : r.isOperand = true) (hc : r ≠ .cmd) (hne : r' ≠ r) (v : Word) :
    (d.writeReg r v).readReg r' = d.readReg r' := by
  cases r with
  | cmd => exact absurd rfl hc
  | keyLen => exact readReg_lengths_cand d (fun h => absurd h hne) (fun _ => rfl) (fun _ _ => rfl)
  | candLen => exact readReg_lengths_cand d (fun _ => rfl) (fun h => absurd h hne) (fun _ _ => rfl)
  | cand k =>
    refine readReg_lengths_cand d (fun _ => rfl) (fun _ => rfl) fun j hj => ?_
    exact packWord_storeWord_ne d.cand j k v (fun h => hne (hj.trans (congrArg _ (Fin.ext h)))) (by omega)
  | key k => exact readReg_key d _ r'
  | lo o =>
    by_cases hhi : r' = .hi o
    · subst hhi
      simp only [Device.writeReg, Device.readReg, operand_setOperand_same, append_extractLsb']
    · exact readReg_setOperand_ne d hne hhi _
  | hi o =>
    by_cases hlo : r' = .lo o
    · subst hlo
      simp only [Device.writeReg, Device.readReg, operand_setOperand_same, append_setWidth]
    · exact readReg_setOperand_ne d hlo hne _
  | _ => cases ho

/-- KEY is written through the registers KEY_k alone. -/
theorem writeReg_key (d : Device) {r : Reg} (ho : r.isOperand = true) (hk : ∀ k, r ≠ .key k) (v : Word) :
    (d.writeReg r v).key = d.key := by
  cases r with
  | key k => exact absurd rfl (hk k)
  | lo o => cases o <;> rfl
  | hi o => cases o <;> rfl
  | cmd => rfl
  | keyLen => rfl
  | candLen => rfl
  | cand k => rfl
  | _ => cases ho

/-- Settles O41: with BUSY = 0 the write stores by the register's access type. -/
theorem operandWriteReadsBack : Obligations.OperandWriteReadsBack := by
  intro s r v hb ho hc
  obtain ⟨-, hengine, -⟩ := writeReg_keeps (d := s.dev) r v (by rintro rfl; cases ho) (by rintro rfl; cases ho)
  refine ⟨_, busWrite_stores (by simp [hb]) hc v, rfl, ?_, ?_, hengine, ?_⟩
  · exact (readReg_writeReg_same s.dev ho hc v).trans (by cases r <;> rfl)
  · exact fun r' hne => readReg_writeReg_ne s.dev ho hc hne v
  · exact fun hk => writeReg_key s.dev ho hk v

/-- Writing both halves of a value, LO first, leaves the operand at the value (R66, R93). -/
theorem writeReg_lo_hi (d : Device) (o : Operand64) (v : DWord) :
    (d.writeReg (.lo o) (v.setWidth 32)).writeReg (.hi o) (v.extractLsb' 32 32) = d.setOperand o v := by
  simp only [Device.writeReg, operand_setOperand_same, setOperand_setOperand, append_setWidth, halves_append]

/-- The step of a pending write that an idle OTPG stores, with no turn listed (log 4). -/
theorem step_stores {s : State} (hb : s.dev.status.busy = false) (ht : s.turns = []) {r : Reg} (hc : r ≠ .cmd) {v : Word}
    {rest : List HostAction} (hp : s.pending = .wr r.offset 4 v :: rest) :
    step s = .next (((s.popTurn.withPending rest).respond .ack).withDev (s.dev.writeReg r v)) := by
  have hturn : s.nextTurn = .host := by simp [State.nextTurn_nil s ht, hb]
  rw [step_wr hturn hp]
  exact busWrite_stores (by simp [hb]) hc v

/-- Settles O49: two stored writes, the second on an OTPG that the first leaves idle. -/
theorem wr64LoadsTheOperand : Obligations.Wr64LoadsTheOperand := by
  intro s o v hb ht hp
  have hfirst := step_stores hb ht (r := .lo o) nofun hp
  refine ⟨_, _, hfirst, step_stores (r := .hi o) ?_ ?_ nofun rfl, rfl, ?_, ?_⟩
  · simp [Device.writeReg, hb]
  · simp [ht]
  · exact writeReg_lo_hi s.dev o v
  · rw [State.withDev_dev, State.withDev_dev, writeReg_lo_hi, operand_setOperand_same]

end Sys2Proof.Machine

/-! ## What changes a result register (O51) -/

namespace Sys2Proof.Machine

/-- The result registers (R42 to R45). -/
def Device.results (d : Device) : BitVec 31 × BitVec 27 × Vector Byte 8 × Vector Byte 64 :=
  (d.trunc, d.codeVal, d.code, d.digest)

/-- An engine step that changes a result register is that of a GEN or TGEN in progress. -/
theorem engineStep_results {kh : KeyedHash} {d : Device} (hne : (engineStep kh d).results ≠ d.results) :
    d.status.busy = true ∧ d.engine.op.isGenerate = true := by
  cases hb : d.status.busy with
  | false => exact absurd (by rw [engineStep_idle kh hb]) hne
  | true =>
    cases ho : d.engine.op.isGenerate with
    | true => exact ⟨rfl, rfl⟩
    | false =>
      refine absurd ?_ hne
      rw [engineStep_check kh hb ho]
      cases hs : d.engine.scanning with
      | true => rw [scanStep_scanning kh hs]; rfl
      | false => rw [scanStep_complete kh hs]; rfl

/-- The issue of GEN and TGEN leaves the result registers to the engine, accepted or rejected (R91, R110, R112). -/
theorem issue_results {d : Device} {op : Op} (hop : op.isGenerate = true) (f : CmdFields) :
    (d.issue op f (setupOf op)).results = d.results := by
  rcases accepts_or_error d op f with ⟨alg, L, h⟩ | ⟨e, h, -⟩
  · rw [issue_of_accepts h]
    cases op with
    | gen => rfl
    | tgen => rfl
    | _ => cases hop
  · rw [issue_of_error h]
    rfl

/-- Of the stored writes only a soft reset changes a result register (R192). -/
theorem writeReg_results {d : Device} {r : Reg} {v : Word} (hne : (d.writeReg r v).results ≠ d.results) :
    r = .ctrl ∧ v.getLsbD 0 = true := by
  by_cases hctrl : r = .ctrl
  · subst hctrl
    refine ⟨rfl, Classical.byContradiction fun h0 => hne ?_⟩
    simp only [Device.writeReg, Device.writeCtrl, if_neg h0]
    rfl
  · refine absurd ?_ hne
    by_cases hstatus : r = .status
    · subst hstatus
      rfl
    · obtain ⟨-, -, htrunc, hval, hcode, hdigest⟩ := writeReg_keeps (d := d) r v hctrl hstatus
      simp only [Device.results, htrunc, hval, hcode, hdigest]

/-- A write of `v` to the register `r` that may change a result register: the issue of a check, or a soft reset. -/
def Device.ResultWrite (d : Device) (r : Reg) (v : Word) : Prop :=
  (r = .cmd ∧ d.status.busy = false ∧ ∃ i, decode v = .instr i ∧ i.op.isGenerate = false)
  ∨ (r = .ctrl ∧ v.getLsbD 0 = true)

theorem writeRegister_results {r : Reg} {v : Word} {s t : State} (h : writeRegister r v s = .next t)
    (hne : t.dev.results ≠ s.dev.results) : s.dev.ResultWrite r v := by
  cases hb : r.isOperand && s.dev.status.busy with
  | true =>
    obtain ⟨ho, hbusy⟩ := Bool.and_eq_true_iff.mp hb
    cases (writeRegister_ignored ho hbusy v).symm.trans h
    exact absurd rfl hne
  | false =>
    by_cases hc : r = .cmd
    · subst hc
      have hidle : s.dev.status.busy = false := hb
      rw [writeRegister_cmd hidle] at h
      cases hd : decode v with
      | rejected j =>
        cases (issueWord_rejected hd s).symm.trans h
        exact absurd rfl hne
      | instr i =>
        cases (issueWord_decoded hd s).symm.trans h
        refine .inl ⟨rfl, hidle, i, hd, Bool.eq_false_iff.mpr fun hgen => hne ?_⟩
        exact issue_results (d := s.dev.storeCmd v) hgen i.fields
    · cases (writeRegister_stores hb hc v).symm.trans h
      exact .inr (writeReg_results hne)

/-- A write access leaves OTPG as it was or is a legal write to a register. -/
theorem busWrite_cases {off bytes : Nat} {v : Word} {s t : State} (h : busWrite off bytes v s = .next t) :
    t.dev = s.dev ∨ ∃ r : Reg, off = r.offset ∧ bytes = 4 ∧ writeRegister r v (s.respond .ack) = .next t := by
  cases hl : busLegal off bytes with
  | false => cases (busWrite_illegal hl v s).symm.trans h; exact .inl rfl
  | true =>
    cases hr : regAt off with
    | none => cases (busWrite_reserved hl hr v s).symm.trans h; exact .inl rfl
    | some r =>
      obtain ⟨rfl, -, -⟩ := (busLegal_iff off bytes).mp hl
      obtain rfl := offset_of_regAt hr
      exact .inr ⟨r, rfl, rfl, (busWrite_reg r v s).symm.trans h⟩

/-- A host turn that changes a result register performs a write that may. -/
theorem hostTurn_results {s t : State} (h : hostTurn s = .next t) (hne : t.dev.results ≠ s.dev.results) :
    ∃ r v rest, s.pending = .wr r.offset 4 v :: rest ∧ s.dev.ResultWrite r v := by
  cases hp : s.pending with
  | nil =>
    cases (hostTurn_nil hp).symm.trans h
    exact absurd rfl hne
  | cons a rest =>
    cases a with
    | rd off bytes =>
      cases (hostTurn_rd hp).symm.trans h
      exact absurd rfl hne
    | poll =>
      cases (hostTurn_poll hp).symm.trans h
      exact absurd rfl hne
    | wr off bytes v =>
      rcases busWrite_cases ((hostTurn_wr hp).symm.trans h) with hd | ⟨r, rfl, rfl, hw⟩
      · exact absurd (congrArg Device.results hd) hne
      · exact ⟨r, v, rest, rfl, writeRegister_results (s := (s.withPending rest).respond .ack) hw hne⟩

/-- Settles O51, by whose turn the step is. -/
theorem resultRegistersChangeOnlyBy : Obligations.ResultRegistersChangeOnlyBy := by
  intro s t h hne
  cases hturn : s.nextTurn with
  | reset => exact .inr (.inr (.inl rfl))
  | engine =>
    cases (stepWith_engine Config.kh hturn).symm.trans h
    exact .inl ⟨rfl, engineStep_results hne⟩
  | host =>
    obtain ⟨r, v, rest, hp, ⟨rfl, hb, i, hd, hcheck⟩ | ⟨rfl, h0⟩⟩ :=
      hostTurn_results ((stepWith_host Config.kh hturn).symm.trans h) hne
    · exact .inr (.inl ⟨rfl, hb, v, rest, i, hp, hd, hcheck⟩)
    · exact .inr (.inr (.inr ⟨rfl, v, rest, hp, h0⟩))

end Sys2Proof.Machine

/-! ## The decoder and the encoder (O1, O2, O3, O4, O5) -/

namespace Sys2Proof

/-- Settles O1: the encoding has RSV = 0, the operation's opcode and the command's fields, and such a word decodes. -/
theorem decodeOfEncode : Obligations.DecodeOfEncode := by
  intro i
  obtain ⟨hrsv, hopc, hfields⟩ := encode_fields i
  exact decode_of_opc i hrsv hopc hfields

/-- Settles O2: both words are the concatenation of the same fields. -/
theorem encodeOfDecode : Obligations.EncodeOfDecode := by
  intro w i h
  obtain ⟨hrsv, hopc, hfields⟩ := decode_instr h
  calc encode i
      = 0#20 ++ i.fields.len ++ BitVec.ofBool i.fields.ainc ++ BitVec.ofBool i.fields.vt
          ++ i.fields.alg.bits ++ i.op.opc := encode_eq_append i
    _ = 0#20 ++ w.extractLsb' 8 4 ++ BitVec.ofBool (w.getLsbD 7) ++ BitVec.ofBool (w.getLsbD 6)
          ++ w.extractLsb' 4 2 ++ w.extractLsb' 0 4 := by
      rw [hfields, hopc, fieldsOfWord, bits_algSelOfBits]
    _ = w := (word_eq_append hrsv).symm

/-- The row of the opcode table that stands for the constructor `mk`: its words, under the mask, are the row's match. -/
theorem decodes_to_iff_mask (w : Word) (mk : CmdFields → Instr) (o : Op) (hop : ∀ f, (mk f).op = o)
    (hfields : ∀ f, (mk f).fields = f) :
    (∃ f, decode w = .instr (mk f)) ↔ w &&& 0xFFFFF00F#32 = o.opc.setWidth 32 := by
  rw [opcode_mask_iff]
  constructor
  · rintro ⟨f, h⟩
    obtain ⟨hrsv, hopc, -⟩ := decode_instr h
    exact ⟨hrsv, hop f ▸ hopc⟩
  · rintro ⟨hrsv, hopc⟩
    exact ⟨fieldsOfWord w, decode_of_opc _ hrsv (hopc.trans (congrArg Op.opc (hop _).symm)) (hfields _).symm⟩

/-- Settles O3, row by row. -/
theorem decodeAgreesWithOpcodeTable : Obligations.DecodeAgreesWithOpcodeTable := fun w =>
  ⟨decodes_to_iff_mask w .gen .gen (fun _ => rfl) fun _ => rfl,
    decodes_to_iff_mask w .chk .chk (fun _ => rfl) fun _ => rfl,
    decodes_to_iff_mask w .hchk .hchk (fun _ => rfl) fun _ => rfl,
    decodes_to_iff_mask w .tgen .tgen (fun _ => rfl) fun _ => rfl,
    decodes_to_iff_mask w .tchk .tchk (fun _ => rfl) fun _ => rfl⟩

/-- A word is a command exactly when RSV is 0 and OPC is 1 to 5 (rules R82, R87). -/
theorem decodes_iff (w : Word) :
    (∃ i, decode w = .instr i) ↔ w.extractLsb' 12 20 = 0 ∧ (w.extractLsb' 0 4).toNat ∈ [1, 2, 3, 4, 5] := by
  have hrej := (decode_eq_rejected_iff w).not
  rw [not_or, not_ne_iff, not_not] at hrej
  cases h : decode w with
  | instr i => exact iff_of_true ⟨i, rfl⟩ (hrej.mp (by simp [h]))
  | rejected r => exact iff_of_false nofun fun hcommand => hrej.mpr hcommand ⟨r, h⟩

/-- GEN and TGEN have the opcodes 1 and 4 (rule R82). -/
theorem Op.isGenerate_iff_opc (o : Op) : o.isGenerate = true ↔ o.opc.toNat ∈ [1, 4] := by
  cases o <;> decide

/-- A decoded command is well-formed exactly when its word's ALG is not 3 and, for GEN and TGEN, its LEN is at most 8. -/
theorem wellFormed_iff_bits {w : Word} {i : Instr} (h : decode w = .instr i) :
    i.wellFormed = true ↔
      w.extractLsb' 4 2 ≠ 3 ∧ ((w.extractLsb' 0 4).toNat ∈ [1, 4] → (w.extractLsb' 8 4).toNat ≤ 8) := by
  obtain ⟨-, hopc, hfields⟩ := decode_instr h
  refine (Laws.Legality.of_checks i).trans ?_
  rw [Op.isGenerate_iff_opc, ← hopc, hfields, fieldsOfWord, Ne, algSelOfBits_eq_reserved]

/-- Settles O4: RSV and OPC make the word a command, ALG and LEN make the command well-formed. -/
theorem legalWordsAreWellFormed : Obligations.LegalWordsAreWellFormed := by
  intro w
  constructor
  · rintro ⟨i, hdec, hwf⟩
    obtain ⟨hrsv, hopc⟩ := (decodes_iff w).mp ⟨i, hdec⟩
    exact ⟨hrsv, hopc, (wellFormed_iff_bits hdec).mp hwf⟩
  · rintro ⟨hrsv, hopc, hlegal⟩
    obtain ⟨i, hdec⟩ := (decodes_iff w).mpr ⟨hrsv, hopc⟩
    exact ⟨i, hdec, (wellFormed_iff_bits hdec).mpr hlegal⟩

/-- Settles O5: each word is the encoding of its command (`OPC | ALG<<4 | VT<<6 | AINC<<7 | L<<8`). -/
theorem assemblerExampleWordsDecode : Obligations.AssemblerExampleWordsDecode :=
  ⟨decodeOfEncode (.gen { len := 6 }), decodeOfEncode (.gen { ainc := true, len := 6 }),
    decodeOfEncode (.gen { alg := .sha256, len := 8 }), decodeOfEncode (.tgen { len := 8 }),
    decodeOfEncode (.tgen { alg := .sha512, len := 8 }), decodeOfEncode (.chk {}),
    decodeOfEncode (.chk { vt := true }), decodeOfEncode (.hchk {}),
    decodeOfEncode (.tchk { alg := .sha256, vt := true })⟩

end Sys2Proof

/-! ## The issue of a word (O7, O8) -/

namespace Sys2Proof.Machine

/-- A table word is a command when its 32-bit word decodes to it. -/
theorem decode_of_decodeTableWord {nbits w : Nat} {i : Instr} (h : decodeTableWord nbits w = some i) :
    decode (BitVec.ofNat 32 (w % 2 ^ nbits)) = .instr i := by
  unfold decodeTableWord at h
  split at h
  · split at h
    · cases h
      assumption
    · cases h
  · cases h

/-- Settles O7: the placed write of CMD is the host's next action on an idle OTPG, so its step is the command's `exec`. -/
theorem fetchWordRunsNext : Obligations.FetchWordRunsNext := by
  intro s nbits w i h
  exact (stepIssuesDecodedCommand (s.withFetchWord nbits w) s.pending _ rfl rfl rfl).2 i (decode_of_decodeTableWord h)

/-- Settles O8: the decoder rejects the word, and the issue of a rejected word is the error. -/
theorem reservedWordIsInvalidCommand : Obligations.ReservedWordIsInvalidCommand := by
  intro w s h
  obtain ⟨r, hr⟩ := (decode_eq_rejected_iff w).mpr h
  exact issueWord_rejected hr s

end Sys2Proof.Machine

/-! ## The fields an operation does not use (O12)

Two issues that agree in the used fields leave devices that differ in E_VT and E_AINC at most, and only where the latched
operation reads neither: VT is read by the scan, AINC by GEN's completion. -/

namespace Sys2Proof.Machine

/-- A device with E_VT and E_AINC rewritten. -/
def Device.withModes (d : Device) (vt ainc : Bool) : Device :=
  { d with engine := { d.engine with vt := vt, ainc := ainc } }

/-- Rewriting E_VT and E_AINC to these values changes none that the latched operation uses (R88). -/
def Engine.KeepsUsedModes (e : Engine) (vt ainc : Bool) : Prop :=
  (e.op = .gen → ainc = e.ainc) ∧ (e.op.isGenerate = false → vt = e.vt)

/-- No register shows E_VT or E_AINC (R46). -/
theorem readReg_withModes (d : Device) (vt ainc : Bool) (r : Reg) : (d.withModes vt ainc).readReg r = d.readReg r := by
  cases r with
  | lo o => cases o <;> rfl
  | hi o => cases o <;> rfl
  | _ => rfl

/-- Of the hidden state an engine step moves SCAN_I and ACC at most: what the issue latched stays (R47). -/
theorem engineStep_engine (kh : KeyedHash) (d : Device) :
    ∃ i a, (engineStep kh d).engine = { d.engine with scanI := i, acc := a } := by
  cases hb : d.status.busy with
  | false => exact ⟨_, _, by rw [engineStep_idle kh hb]⟩
  | true =>
    cases ho : d.engine.op with
    | gen => exact ⟨_, _, by rw [engineStep_gen kh hb ho]⟩
    | tgen => exact ⟨_, _, by rw [engineStep_tgen kh hb ho]⟩
    | _ =>
      rw [engineStep_check kh hb (by rw [ho]; rfl)]
      cases hs : d.engine.scanning with
      | true => exact ⟨_, _, by rw [scanStep_scanning kh hs]; rfl⟩
      | false => exact ⟨_, _, by rw [scanStep_complete kh hs]⟩

theorem Engine.KeepsUsedModes.engineStep {d : Device} {vt ainc : Bool} (h : d.engine.KeepsUsedModes vt ainc)
    (kh : KeyedHash) : (engineStep kh d).engine.KeepsUsedModes vt ainc := by
  obtain ⟨i, a, he⟩ := engineStep_engine kh d
  rw [he]
  exact h

/-- An engine step does not see modes that its operation does not use. -/
theorem engineStep_withModes (kh : KeyedHash) {d : Device} {vt ainc : Bool} (h : d.engine.KeepsUsedModes vt ainc) :
    engineStep kh (d.withModes vt ainc) = (engineStep kh d).withModes vt ainc := by
  obtain ⟨hgen, hcheck⟩ := h
  cases hb : d.status.busy with
  | false => rw [engineStep_idle kh hb, engineStep_idle kh (d := d.withModes vt ainc) hb]
  | true =>
    cases ho : d.engine.op with
    | gen =>
      obtain rfl := hgen ho
      rw [engineStep_gen kh hb ho, engineStep_gen kh (d := d.withModes vt _) hb ho]
      rfl
    | tgen =>
      rw [engineStep_tgen kh hb ho, engineStep_tgen kh (d := d.withModes vt ainc) hb ho]
      rfl
    | _ =>
      have hop : d.engine.op.isGenerate = false := by rw [ho]; rfl
      obtain rfl := hcheck hop
      rw [engineStep_check kh hb hop, engineStep_check kh (d := d.withModes _ ainc) hb hop]
      cases hs : d.engine.scanning with
      | true =>
        rw [scanStep_scanning kh hs, scanStep_scanning kh (d := d.withModes _ ainc) hs]
        rfl
      | false =>
        rw [scanStep_complete kh hs, scanStep_complete kh (d := d.withModes _ ainc) hs]
        rfl

/-- Nor does a run of engine steps. -/
theorem engineRun_withModes (kh : KeyedHash) (n : Nat) {d : Device} {vt ainc : Bool}
    (h : d.engine.KeepsUsedModes vt ainc) :
    engineRun kh n (d.withModes vt ainc) = (engineRun kh n d).withModes vt ainc := by
  induction n generalizing d with
  | zero => rfl
  | succ n ih => rw [engineRun, engineRun, engineStep_withModes kh h, ih (h.engineStep kh)]

/-- Validation reads of a command's fields ALG, and LEN for GEN and TGEN (R91). -/
theorem validate_sameUsed (d : Device) {op : Op} {f g : CmdFields} (h : CmdFields.sameUsed op f g) :
    d.validate op g = d.validate op f := by
  obtain ⟨halg, -, hlen, -⟩ := h
  have hL : d.codeLength op g = d.codeLength op f := by
    unfold Device.codeLength
    split
    · exact (hlen ‹_›).symm
    · rfl
  simp only [Device.validate, halg, hL]

/-- Two issues that agree in the used fields leave the same device but for modes the operation does not use. -/
theorem issue_sameUsed (d : Device) {op : Op} {f g : CmdFields} (h : CmdFields.sameUsed op f g) :
    ∃ vt ainc, d.issue op g (setupOf op) = (d.issue op f (setupOf op)).withModes vt ainc
      ∧ (d.issue op f (setupOf op)).engine.KeepsUsedModes vt ainc := by
  have hval := validate_sameUsed d h
  rcases accepts_or_error d op f with ⟨alg, L, hf⟩ | ⟨e, hf, -⟩
  · have hg : d.Accepts op g alg L := by
      rwa [← validate_eq_ok_iff, hval, validate_eq_ok_iff]
    obtain ⟨-, hainc, -, hvt⟩ := h
    refine ⟨g.vt, g.ainc, ?_, ?_⟩
    · rw [issue_of_accepts hf, issue_of_accepts hg]
      cases op <;> rfl
    · rw [issue_of_accepts hf]
      cases op <;> exact ⟨fun ho => (hainc ho).symm, fun hc => (hvt hc).symm⟩
  · refine ⟨d.engine.vt, d.engine.ainc, ?_, ?_⟩
    · rw [issue_of_error hf, issue_of_error (hval.trans hf)]
      rfl
    · rw [issue_of_error hf]
      exact ⟨fun _ => rfl, fun _ => rfl⟩

/-- Settles O12: after any number of engine steps the two devices still differ in E_VT and E_AINC alone, which neither a
register nor IRQ shows. -/
theorem unusedFieldsChangeNothing : Obligations.UnusedFieldsChangeNothing := by
  intro kh i j s hop hused
  obtain ⟨vt, ainc, hissue, hkeeps⟩ := issue_sameUsed s.dev hused
  refine ⟨_, _, exec_eq i s, exec_eq j s, fun n => ?_⟩
  rw [State.withDev_dev, State.withDev_dev, ← hop, hissue, engineRun_withModes kh n hkeeps]
  exact ⟨rfl, fun _ => busRead_congr (fun r _ => (readReg_withModes _ vt ainc r).symm) 4⟩

end Sys2Proof.Machine

/-! ## The stages of Code (O17, O18, O19, O20) -/

namespace Sys2Proof.Machine

/-- Adding 2^64 does not change the counter modulo 2^64 (R116). -/
theorem wrap64_two_pow_add (c : Int) : wrap64 (2 ^ 64 + c) = wrap64 c := by
  apply BitVec.eq_of_toNat_eq
  rw [wrap64_toNat, wrap64_toNat, Int.add_emod_left]

/-- The message spells the counter modulo 2^64 (R101). -/
theorem beVal_counterMessage (c : Int) : (beVal (counterMessage c) : Int) = c % 2 ^ 64 := by
  have hval : beVal (counterMessage c) = (wrap64 c).toNat :=
    (beVal_beBytes 8 _).trans (Nat.mod_eq_of_lt (wrap64 c).isLt)
  rw [hval, wrap64_toNat, Int.toNat_of_nonneg (Int.emod_nonneg c (by decide))]

/-- Settles O17: Code reads its counter through `wrap64` alone. -/
theorem counterIsHashedModulo2Pow64 : Obligations.CounterIsHashedModulo2Pow64 := by
  intro kh alg key c L
  refine ⟨beBytes_length _ _, beVal_counterMessage c, ?_⟩
  rw [← otpCode_wrap64, wrap64_two_pow_add, otpCode_wrap64]

/-- The offset and the three bytes after it stand within the first 19 bytes (R108). -/
theorem digestOffset_add_three_le (D : List Byte) : digestOffset D + 3 ≤ 18 :=
  Nat.add_le_add_right (digestOffset_le D) 3

/-- The mask 0x7FFFFFFF on four bytes is the mask 0x7F on the first of them (R104). -/
theorem truncated_eq {D : List Byte} (h : digestOffset D + 3 < D.length) :
    truncated D = (byteAt D (digestOffset D) &&& 0x7F#8).toNat * 2 ^ 24 + (byteAt D (digestOffset D + 1)).toNat * 2 ^ 16
      + (byteAt D (digestOffset D + 2)).toNat * 2 ^ 8 + (byteAt D (digestOffset D + 3)).toNat := by
  rw [truncated, and_7FFFFFFF, beVal_slice h, toNat_and_7F]
  have h1 := (byteAt D (digestOffset D + 1)).isLt
  have h2 := (byteAt D (digestOffset D + 2)).isLt
  have h3 := (byteAt D (digestOffset D + 3)).isLt
  omega

/-- Settles O18: the four bytes lie inside the digest, and what the mask leaves is below 2^31. -/
theorem truncatedValueIs31Bits : Obligations.TruncatedValueIs31Bits := by
  intro D hlen
  have hoff := digestOffset_add_three_le D
  exact ⟨truncated_eq (by omega), Nat.le_of_lt_succ (truncated_lt D)⟩

/-- Settles O19: the digest length is the keyed hash's type, and every DL(alg) is above the last byte that is read. -/
theorem truncationStaysInsideTheDigest : Obligations.TruncationStaysInsideTheDigest := by
  intro kh alg key msg D
  have hlen : D.length = digestLen alg := Vector.length_toList
  exact ⟨hlen, digestOffset_le D, digestOffset_add_three_le D, hlen ▸ digestLen_ge alg⟩

/-- The digest that Code starts from (R102). -/
theorem otpCode_digest (kh : KeyedHash) (alg : HashAlg) (key : List Byte) (c : Int) (L : Fin 9) :
    (otpCode kh alg key c L).digest = (kh alg key (counterMessage c)).toList := rfl

theorem otpCode_digest_length (kh : KeyedHash) (alg : HashAlg) (key : List Byte) (c : Int) (L : Fin 9) :
    (otpCode kh alg key c L).digest.length = digestLen alg :=
  Vector.length_toList

/-- A code's characters spell its value (R105, R106). -/
theorem codeOfDigest_spells_value (D : List Byte) (L : Nat) :
    (codeOfDigest D L).chars.foldl (fun v b => v * 10 + (b.toNat - 0x30)) 0 = (codeOfDigest D L).value :=
  (foldl_digits L _).trans (Nat.mod_eq_of_lt (codeOfDigest_value_lt D L))

/-- Settles O20, stage by stage. -/
theorem codeIsDecimalOfLengthL : Obligations.CodeIsDecimalOfLengthL := by
  intro kh alg key c L r
  have hlen : r.digest.length = digestLen alg := otpCode_digest_length kh alg key c L
  have hoff : r.offset = digestOffset r.digest := rfl
  refine ⟨otpCode_digest kh alg key c L, hoff, ?_, rfl, codeOfDigest_chars_length _ _, fun _ => mem_digits, rfl,
    codeOfDigest_spells_value _ _⟩
  rw [hoff, digestOffset_eq, hlen]

end Sys2Proof.Machine

/-! ## GEN and TGEN from issue to completion (O13, O14, O15, O16) -/

namespace Sys2Proof.Machine

/-- The counter that GEN and TGEN latch in E_CTR (R110, R113). -/
def Device.hashedCounter (d : Device) (op : Op) : DWord :=
  if op.isTotp then totpCounter d.timestamp d.period else d.counter

/-- `d` after the accepted issue of a GEN or TGEN (R91): BUSY, with the command and its counter latched. -/
def Device.generating (d : Device) (op : Op) (f : CmdFields) (alg : HashAlg) (L : Fin 9) : Device :=
  { d with
    status := d.status.issued
    engine := { d.engine with
      op := op, alg := alg, vt := f.vt, ainc := f.ainc, len := L, ctr := d.hashedCounter op } }

/-- `d` with the code `r` in its result registers and its command completed (R111, R114). -/
def Device.completedWith (d : Device) (r : CodeResult) : Device :=
  { d with
    trunc := BitVec.ofNat 31 r.trunc
    codeVal := BitVec.ofNat 27 r.value
    code := padTo 8 r.chars
    digest := padTo 64 r.digest
    status := d.status.completed false }

section
variable (kh : KeyedHash) {f : CmdFields} {alg : HashAlg} {L : Fin 9}

theorem issue_generate {d : Device} {op : Op} (hop : op.isGenerate = true) (h : d.Accepts op f alg L) :
    d.issue op f (setupOf op) = d.generating op f alg L := by
  cases op with
  | gen => exact issue_gen h
  | tgen => exact issue_tgen h
  | _ => cases hop

theorem exec_generate {i : Instr} {s : State} (hop : i.op.isGenerate = true) (h : s.dev.Accepts i.op i.fields alg L) :
    exec i s = .next (s.withDev (s.dev.generating i.op i.fields alg L)) := by
  rw [exec_eq, issue_generate hop h]

/-- The one engine step of GEN (R110, R115). -/
theorem engineStep_generating_gen (d : Device) :
    engineStep kh (d.generating .gen f alg L) =
      { (d.generating .gen f alg L).completedWith (otpCode kh alg d.keyBytes d.counter.toNat L) with
        counter := if f.ainc then d.counter + 1 else d.counter } := by
  rw [← wrap64_add_one]
  exact engineStep_gen kh rfl rfl

/-- The one engine step of TGEN (R112). -/
theorem engineStep_generating_tgen (d : Device) :
    engineStep kh (d.generating .tgen f alg L) =
      (d.generating .tgen f alg L).completedWith
        (otpCode kh alg d.keyBytes (totpCounter d.timestamp d.period).toNat L) :=
  engineStep_tgen kh rfl rfl

/-- CODE and DIGEST hold the code's strings byte by byte, and 0x00 above them (R44, R45, R114). -/
theorem otpCode_padded_bytes (alg : HashAlg) (key : List Byte) (c : Int) (L : Fin 9) :
    let r := otpCode kh alg key c L
    (∀ i : Fin 8, (i.val < L.val → r.chars[i.val]? = some (padTo 8 r.chars)[i])
      ∧ (L.val ≤ i.val → (padTo 8 r.chars)[i] = 0x00#8))
    ∧ ∀ i : Fin 64, (i.val < digestLen alg → r.digest[i.val]? = some (padTo 64 r.digest)[i])
      ∧ (digestLen alg ≤ i.val → (padTo 64 r.digest)[i] = 0x00#8) := by
  intro r
  have hchars : r.chars.length = L := codeOfDigest_chars_length _ _
  have hdigest : r.digest.length = digestLen alg := otpCode_digest_length kh alg key c L
  rw [← hchars, ← hdigest]
  exact ⟨padTo_getElem_eq r.chars, padTo_getElem_eq r.digest⟩

/-- Both leave in the result registers the code of the counter they latched. -/
theorem engineStep_generating_results {op : Op} (hop : op.isGenerate = true) (d : Device) :
    (engineStep kh (d.generating op f alg L)).results =
      (d.completedWith (otpCode kh alg d.keyBytes (d.hashedCounter op).toNat L)).results := by
  cases op with
  | gen => rw [engineStep_generating_gen]; rfl
  | tgen => rw [engineStep_generating_tgen]; rfl
  | _ => cases hop

/-- One GEN with AINC = 1, from a device that accepts it. -/
theorem genRound_dev {s : State} (h : s.dev.Accepts .gen f alg L) (hainc : f.ainc = true) :
    (genRound kh f s).dev =
      { (s.dev.generating .gen f alg L).completedWith (otpCode kh alg s.dev.keyBytes s.dev.counter.toNat L) with
        counter := s.dev.counter + 1 } := by
  rw [genRound, exec_generate (i := .gen f) rfl h]
  simp only [State.withDev_dev, Instr.op, Instr.fields, engineStep_generating_gen, hainc, if_true]

/-- After `n` GEN with AINC = 1 the next one is accepted as the first was, under the same key, `n` counters on. -/
theorem genRounds_dev {s : State} (h : s.dev.Accepts .gen f alg L) (hainc : f.ainc = true) (n : Nat) :
    (genRounds kh f n s).dev.Accepts .gen f alg L
      ∧ (genRounds kh f n s).dev.keyBytes = s.dev.keyBytes
      ∧ (genRounds kh f n s).dev.counter = wrap64 (s.dev.counter.toNat + n) := by
  induction n with
  | zero => exact ⟨h, rfl, by simp [genRounds]⟩
  | succ n ih =>
    obtain ⟨haccepts, hkey, hcounter⟩ := ih
    rw [genRounds, genRound_dev kh haccepts hainc]
    obtain ⟨halg, hfits, -, hlen⟩ := haccepts
    refine ⟨⟨halg, hfits, nofun, hlen⟩, hkey, ?_⟩
    calc (genRounds kh f n s).dev.counter + 1
        = wrap64 ((wrap64 (s.dev.counter.toNat + n)).toNat + 1) := by rw [hcounter, wrap64_add_one]
      _ = wrap64 (s.dev.counter.toNat + (n + 1 : Nat)) := by rw [wrap64_add, Int.add_assoc, Nat.cast_succ]

end

/-- Settles O13: both states are those of the issue and of GEN's engine step. -/
theorem genRunsInOneEngineStep : Obligations.GenRunsInOneEngineStep := fun kh f s alg L h =>
  ⟨_, _, exec_generate (i := .gen f) rfl h, rfl, engineStep_generating_gen kh s.dev, rfl,
    otpCode_padded_bytes kh alg s.dev.keyBytes s.dev.counter.toNat L⟩

/-- Settles O14: likewise, at the latched quotient. -/
theorem tgenRunsInOneEngineStep : Obligations.TgenRunsInOneEngineStep := fun kh f s alg L h =>
  ⟨_, _, _, exec_generate (i := .tgen f) rfl h, totpCounter_toNat s.dev.timestamp s.dev.period, rfl,
    engineStep_generating_tgen kh s.dev, rfl, otpCode_padded_bytes kh alg s.dev.keyBytes _ L⟩

/-- Settles O15: round `n` is one more round on what the rounds before it leave. -/
theorem genSequenceWalksTheCounters : Obligations.GenSequenceWalksTheCounters := by
  intro kh f s alg L h hainc n
  obtain ⟨haccepts, hkey, hcounter⟩ := genRounds_dev kh h hainc n
  refine ⟨hcounter, ?_⟩
  rw [genRounds, genRound_dev kh haccepts hainc, ← hcounter, ← hkey]
  rfl

/-- Settles O16: the results are those of one and the same code. -/
theorem resultsDependOnlyOnOperands : Obligations.ResultsDependOnlyOnOperands := by
  intro kh i j s u alg L hi hj hs hu hkey hcounter
  have hctr : s.dev.hashedCounter i.op = u.dev.hashedCounter j.op := hcounter
  refine ⟨_, _, exec_generate hi hs, exec_generate hj hu, ?_⟩
  have hresults : (engineStep kh (s.dev.generating i.op i.fields alg L)).results
      = (engineStep kh (u.dev.generating j.op j.fields alg L)).results := by
    rw [engineStep_generating_results kh hi, engineStep_generating_results kh hj, hkey, hctr]
    rfl
  simpa only [Device.results, Prod.mk.injEq, State.withDev_dev] using hresults

end Sys2Proof.Machine

/-! ## A running check's accumulator (O59) -/

namespace Sys2Proof.Machine

/-- One evaluated counter: ACC gathers its match as SCAN_I passes it (R134). -/
theorem Device.ScanRight.scanned {kh : KeyedHash} {d : Device} (h : d.ScanRight kh) :
    (d.scanned (d.matchesAt kh d.engine.scanI)).ScanRight kh := by
  intro hb ho
  obtain ⟨hacc, hresults⟩ := h hb ho
  refine ⟨?_, hresults⟩
  calc (d.engine.acc || d.matchesAt kh d.engine.scanI) = true
      ↔ (∃ i < d.engine.scanI, d.matchesAt kh i = true) ∨ d.matchesAt kh d.engine.scanI = true := by
        rw [Bool.or_eq_true, hacc]
    _ ↔ ∃ i < d.engine.scanI + 1, d.matchesAt kh i = true := Nat.exists_lt_succ_right.symm

/-- An engine step evaluates the counter at SCAN_I, or leaves no command running. -/
theorem Device.ScanRight.engineStep {kh : KeyedHash} {d : Device} (h : d.ScanRight kh) :
    (engineStep kh d).ScanRight kh := by
  intro he
  cases hb : d.status.busy with
  | false => simp [engineStep_idle kh hb, hb] at he
  | true =>
    obtain ⟨-, -, hscan⟩ := engineStep_still_busy kh he hb
    rw [hscan] at he ⊢
    exact h.scanned he

/-- The issue of a word on an idle OTPG: an accepted check starts with ACC = 0 at SCAN_I = 0 and its results zeroed (R138). -/
theorem Device.scanRight_issue (kh : KeyedHash) {d : Device} (hb : d.status.busy = false) (op : Op) (f : CmdFields) :
    (d.issue op f (setupOf op)).ScanRight kh := by
  rcases accepts_or_error d op f with ⟨alg, L, ha⟩ | ⟨e, he, -⟩
  · cases op with
    | gen =>
      rw [setupOf, issue_gen ha]
      exact fun _ => nofun
    | tgen =>
      rw [setupOf, issue_tgen ha]
      exact fun _ => nofun
    | _ =>
      rw [issue_check rfl ha]
      exact fun _ _ => ⟨⟨nofun, fun ⟨_, hi, _⟩ => absurd hi (Nat.not_lt_zero _)⟩, rfl, rfl, rfl, rfl⟩
  · rw [issue_of_error he]
    intro hbusy
    simp [Status.rejected, hb] at hbusy

/-- Every move of OTPG keeps the accumulator right. -/
theorem Move.keeps_scanRight {kh : KeyedHash} {d e : Device} (hm : Move kh d e) (h : d.ScanRight kh) : e.ScanRight kh := by
  cases hm with
  | stay => exact h
  | engine => exact h.engineStep
  | reset => exact nofun
  | ignored => exact h
  | issued w i hb => exact Device.scanRight_issue kh (d := d.storeCmd w) hb i.op i.fields
  | noCommand w hb => exact fun he => absurd he (by simp [Status.rejected, hb])
  | wrote r v hb hc =>
    intro he
    obtain ⟨ie, st, hw, hbusy⟩ := writeReg_while_busy hb hc he
    rw [hw]
    exact fun ho => h hbusy ho

/-- Settles O59: a step moves OTPG by one of the moves, and each move keeps the accumulator right. -/
theorem scanAccumulatorRightAfterEveryStep : Obligations.ScanAccumulatorRightAfterEveryStep :=
  fun _ _ h hstep => (move_of_step hstep).keeps_scanRight h

end Sys2Proof.Machine

/-! ## The comparators (O22) -/

namespace Sys2Proof.Machine

/-- Settles O22, from the laws of the two loops. -/
theorem comparatorsComputeMatch : Obligations.ComparatorsComputeMatch := fun cand S L hL =>
  ⟨matchCt_equal cand S L hL, matchVt_equal cand S L, matchCt_lanes cand S L, matchVt_lanes_le cand S L⟩

end Sys2Proof.Machine

/-! ## The windows of the checks (O24, O25, O26, O28) -/

namespace Sys2Proof.Machine

/-- A window's counters go on from the integer its base stands for (R134). -/
theorem windowCounter_wrap64 (c : Int) (i : Nat) : windowCounter (wrap64 c) i = wrap64 (c + i) :=
  wrap64_add c i

/-- Settles O24: the size is a natural, and the counters wrap with the base. -/
theorem hotpWindowCounters : Obligations.HotpWindowCounters := fun counter below _ =>
  ⟨rfl, windowCounter_wrap64 ((counter.toNat : Int) - below.toNat)⟩

/-- A window of the naturals from `a` to `b` holds exactly the counters between them, both included. -/
theorem exists_windowCounter_iff (a : Nat) {b : Nat} (hb : b < 2 ^ 64) (c : DWord) :
    (∃ i, i < (if a ≤ b then b - a + 1 else 0) ∧ windowCounter (wrap64 a) i = c) ↔ a ≤ c.toNat ∧ c.toNat ≤ b := by
  have hcounter : ∀ i : Nat, windowCounter (wrap64 a) i = wrap64 (a + i : Nat) := windowCounter_wrap64 a
  constructor
  · rintro ⟨i, hi, rfl⟩
    split at hi
    · rw [hcounter, wrap64_toNat_of_lt (by omega)]
      omega
    · exact absurd hi (Nat.not_lt_zero i)
  · rintro ⟨hac, hcb⟩
    refine ⟨c.toNat - a, ?_, ?_⟩
    · rw [if_pos (hac.trans hcb)]
      omega
    · rw [hcounter, Nat.add_sub_cancel' hac, wrap64_of_toNat]

/-- Settles O25: the window runs from the start counter to the end counter, whose timestamp is taken modulo 2^64. -/
theorem totpWindowIsClosedInterval : Obligations.TotpWindowIsClosedInterval := by
  intro ts p below above _ c
  rw [totpWindow_eq]
  exact exists_windowCounter_iff _ (Nat.lt_of_le_of_lt (Nat.div_le_self _ _) (Nat.mod_lt _ (Nat.two_pow_pos 64))) c

/-- Settles O26: the tolerance is one period, so the start counter is one below TIMESTAMP div 30 and the end counter one above. -/
theorem totpDefaultWindowIsThreeCounters : Obligations.TotpDefaultWindowIsThreeCounters := by
  intro ts hlow hhigh
  have h30 : (30 : DWord).toNat = 30 := rfl
  have hstart : (ts.toNat - 30) / 30 = ts.toNat / 30 - 1 := by omega
  have hend : (ts.toNat + 30) / 30 = ts.toNat / 30 + 1 := by omega
  have hpos : 1 ≤ ts.toNat / 30 := by omega
  rw [totpWindow_of_no_wrap (h30 ▸ hhigh), h30, hstart, hend]
  refine ⟨?_, fun i hi => ?_⟩
  · exact (if_pos (by omega)).trans (by omega)
  · rw [windowCounter_wrap64, ← Nat.cast_add, wrap64_toNat_of_lt (by omega)]
    omega

/-- Settles O28: COUNT holds the size, and the counters wrap with START. -/
theorem checkRangeOverIntegerBounds : Obligations.CheckRangeOverIntegerBounds := by
  intro first last hlt
  refine ⟨?_, windowCounter_wrap64 first⟩
  show ((wrap64 (max 0 (last - first))).toNat : Int) = _
  rw [wrap64_toNat]
  omega

end Sys2Proof.Machine

/-! ## Checks from issue to completion (O23, O27, O29, O30, O31, O34, O35) -/

namespace Sys2Proof.Machine

/-- `d` after the accepted issue of a check (R91, R138): BUSY, the results zeroed, the scan of its window at index 0. -/
def Device.checking (d : Device) (op : Op) (f : CmdFields) (alg : HashAlg) (L : Fin 9) : Device :=
  { d with
    status := d.status.issued
    trunc := 0
    codeVal := 0
    code := Vector.replicate 8 0
    digest := Vector.replicate 64 0
    engine := { op := op, alg := alg, vt := f.vt, ainc := f.ainc, len := L, ctr := d.engine.ctr,
                scanBase := (d.window op).base, scanN := (d.window op).count, scanI := 0, acc := false } }

theorem exec_check {i : Instr} {s : State} {alg : HashAlg} {L : Fin 9} (hop : i.op.isGenerate = false)
    (h : s.dev.Accepts i.op i.fields alg L) :
    exec i s = .next (s.withDev (s.dev.checking i.op i.fields alg L)) := by
  rw [exec_eq, issue_check hop h]
  rfl

/-- Settles O23: `checking` is the state it describes. -/
theorem checkIssueStartsTheScan : Obligations.CheckIssueStartsTheScan := fun _ _ _ _ hop h => exec_check hop h

/-- Counter `k` of the window that `d` gives a check has the candidate as its code. -/
def Device.windowHit (kh : KeyedHash) (d : Device) (op : Op) (alg : HashAlg) (L : Fin 9) (k : Nat) : Bool :=
  matchAt kh alg d.keyBytes d.candBytes (d.window op).base L k

/-- Some counter below index `n` of that window has it: ACC once `n` counters are evaluated (R134). -/
def Device.hitBelow (kh : KeyedHash) (d : Device) (op : Op) (alg : HashAlg) (L : Fin 9) (n : Nat) : Bool :=
  (List.range n).any (d.windowHit kh op alg L)

theorem hitBelow_iff {kh : KeyedHash} {d : Device} {op : Op} {alg : HashAlg} {L : Fin 9} {n : Nat} :
    d.hitBelow kh op alg L n = true ↔ ∃ k < n, d.windowHit kh op alg L k = true := by
  simp [Device.hitBelow]

theorem hitBelow_eq_false_iff {kh : KeyedHash} {d : Device} {op : Op} {alg : HashAlg} {L : Fin 9} {n : Nat} :
    d.hitBelow kh op alg L n = false ↔ ∀ k < n, d.windowHit kh op alg L k = false := by
  simp [Device.hitBelow]

section
variable (kh : KeyedHash) {op : Op} (hop : op.isGenerate = false) (f : CmdFields) (alg : HashAlg) (L : Fin 9) (d : Device)
include hop

/-- While no match has ended the scan: `n` counters are evaluated after `n` engine steps, and nothing else has changed. -/
theorem engineRun_checking {n : Nat} (hn : n ≤ (d.window op).count)
    (hvt : f.vt = true → ∀ j, j + 1 < n → d.windowHit kh op alg L j = false) :
    engineRun kh n (d.checking op f alg L) = (d.checking op f alg L).scanAt n (d.hitBelow kh op alg L n) :=
  engineRun_scan kh (d := d.checking op f alg L) rfl hop rfl rfl n hn hvt

/-- Until then STATUS is as the issue left it (R135). -/
theorem engineRun_checking_status {n : Nat} (hn : n ≤ (d.window op).count)
    (hvt : f.vt = true → ∀ j, j + 1 < n → d.windowHit kh op alg L j = false) :
    (engineRun kh n (d.checking op f alg L)).status = d.status.issued := by
  rw [engineRun_checking kh hop f alg L d hn hvt]
  rfl

/-- The step after that completes the check, at the end of the window or, in variable-time mode, after a match (R135, R137). -/
theorem engineRun_checking_completes {n : Nat} (hn : n ≤ (d.window op).count)
    (hvt : f.vt = true → ∀ j, j + 1 < n → d.windowHit kh op alg L j = false)
    (hend : (d.window op).count ≤ n ∨ (f.vt = true ∧ d.hitBelow kh op alg L n = true)) :
    (engineRun kh (n + 1) (d.checking op f alg L)).status = d.status.completed (d.hitBelow kh op alg L n) := by
  rw [engineRun_succ, engineRun_checking kh hop f alg L d hn hvt]
  exact engineStep_at_complete kh (d := d.checking op f alg L) rfl hop hend

/-- Constant-time mode: the whole window is scanned (R136). -/
theorem engineRun_checking_ct (hvt : f.vt = false) :
    (engineRun kh ((d.window op).count + 1) (d.checking op f alg L)).status
      = d.status.completed (d.hitBelow kh op alg L (d.window op).count) :=
  engineRun_checking_completes kh hop f alg L d le_rfl (by simp [hvt]) (.inl le_rfl)

/-- Without a match the scan goes to the end of the window in either mode. -/
theorem engineRun_checking_miss (hmiss : ∀ k < (d.window op).count, d.windowHit kh op alg L k = false) :
    (∀ n, n ≤ (d.window op).count → (engineRun kh n (d.checking op f alg L)).status = d.status.issued)
      ∧ (engineRun kh ((d.window op).count + 1) (d.checking op f alg L)).status = d.status.completed false := by
  refine ⟨fun n hn => engineRun_checking_status kh hop f alg L d hn fun _ j hj => hmiss j (by omega), ?_⟩
  rw [engineRun_checking_completes kh hop f alg L d le_rfl (fun _ j hj => hmiss j (by omega)) (.inl le_rfl),
    hitBelow_eq_false_iff.mpr hmiss]

/-- A first match at `k` ends a variable-time scan there (R137). -/
theorem engineRun_checking_vt_hit (hvt : f.vt = true) {k : Nat} (hk : k < (d.window op).count)
    (hhit : d.windowHit kh op alg L k = true) (hfirst : ∀ j < k, d.windowHit kh op alg L j = false) :
    (∀ n, n ≤ k + 1 → (engineRun kh n (d.checking op f alg L)).status = d.status.issued)
      ∧ (engineRun kh (k + 2) (d.checking op f alg L)).status = d.status.completed true := by
  have hany : d.hitBelow kh op alg L (k + 1) = true := hitBelow_iff.mpr ⟨k, Nat.lt_succ_self k, hhit⟩
  refine ⟨fun n hn => engineRun_checking_status kh hop f alg L d (by omega) fun _ j hj => hfirst j (by omega), ?_⟩
  rw [engineRun_checking_completes kh hop f alg L d (n := k + 1) hk (fun _ j hj => hfirst j (by omega))
    (.inr ⟨hvt, hany⟩), hany]

/-- In either mode the check completes with MATCH = 1 exactly when some counter of the window matches (R133, R135). -/
theorem exists_engineRun_checking_completed :
    ∃ n, (engineRun kh n (d.checking op f alg L)).status
      = d.status.completed (d.hitBelow kh op alg L (d.window op).count) := by
  cases hvt : f.vt with
  | false => exact ⟨_, engineRun_checking_ct kh hop f alg L d hvt⟩
  | true =>
    cases hany : d.hitBelow kh op alg L (d.window op).count with
    | false => exact ⟨_, (engineRun_checking_miss kh hop f alg L d (hitBelow_eq_false_iff.mp hany)).2⟩
    | true =>
      have hex := hitBelow_iff.mp hany
      obtain ⟨hlt, hhit⟩ := Nat.find_spec hex
      refine ⟨_, (engineRun_checking_vt_hit kh hop f alg L d hvt hlt hhit fun j hj => ?_).2⟩
      exact Bool.eq_false_iff.mpr fun h => Nat.find_min hex hj ⟨hj.trans hlt, h⟩

/-- A check of an empty window is completed by its first engine step (R147). -/
theorem engineStep_checking_empty (hempty : (d.window op).count = 0) :
    (engineStep kh (d.checking op f alg L)).status = d.status.completed false := by
  have h := (engineRun_checking_miss kh hop f alg L d (by simp [hempty])).2
  rwa [hempty] at h

end

/-- The code length of a check is CAND_LEN, whatever its LEN field (R88). -/
theorem codeLength_check {op : Op} (hop : op.isGenerate = false) (d : Device) (f : CmdFields) :
    d.codeLength op f = d.candLen :=
  if_neg (by simp [hop])

/-- Of a check's fields its acceptance depends on ALG alone (R91). -/
theorem Device.Accepts.of_alg {op : Op} (hop : op.isGenerate = false) {alg : HashAlg} {L : Fin 9} {d : Device}
    {f g : CmdFields} (h : d.Accepts op f alg L) (halg : f.alg = g.alg) : d.Accepts op g alg L :=
  ⟨halg ▸ h.algorithm, h.keyFits, h.periodSet, by rw [codeLength_check hop, ← codeLength_check hop d f, h.lengthIs]⟩

/-- Settles O29: the whole window is scanned, and MATCH is ACC. -/
theorem constantTimeCheckCompletes : Obligations.ConstantTimeCheckCompletes := by
  intro kh i s alg L hop h hvt
  refine ⟨_, exec_check hop h, fun k hk => ?_, _, engineRun_checking_ct kh hop i.fields alg L s.dev hvt, hitBelow_iff⟩
  exact engineRun_checking_status kh hop i.fields alg L s.dev hk (by simp [hvt])

/-- Settles O30: the first match ends the scan, or none does. -/
theorem variableTimeCheckCompletes : Obligations.VariableTimeCheckCompletes := fun kh i s alg L hop h hvt =>
  ⟨_, exec_check hop h, fun _ hk hhit hfirst => engineRun_checking_vt_hit kh hop i.fields alg L s.dev hvt hk hhit hfirst,
    engineRun_checking_miss kh hop i.fields alg L s.dev⟩

/-- Settles O31: the comparators both compute `match`, and both scans end with MATCH saying whether the window holds one. -/
theorem modesGiveTheSameMatch : Obligations.ModesGiveTheSameMatch := by
  refine ⟨fun cand S L hL => ?_, fun kh i j s alg L hop hij halg _ _ h => ?_⟩
  · rw [matchCt_equal cand S L hL, matchVt_equal]
    exact ⟨rfl, rfl⟩
  · have hexec : exec j s = .next (s.withDev (s.dev.checking i.op j.fields alg L)) := by
      rw [hij]
      exact exec_check (hij ▸ hop) (hij ▸ Device.Accepts.of_alg hop h halg)
    obtain ⟨m, hm⟩ := exists_engineRun_checking_completed kh hop i.fields alg L s.dev
    obtain ⟨n, hn⟩ := exists_engineRun_checking_completed kh hop j.fields alg L s.dev
    exact ⟨_, _, m, n, _, exec_check hop h, hexec, hm, hn⟩

/-- A check at the end of its window hashes nothing in its next step (R134). -/
theorem observed_at_end (kh : KeyedHash) {d : Device} (hop : d.engine.op.isGenerate = false)
    (hend : d.engine.scanN ≤ d.engine.scanI) : d.observed kh = none := by
  have hscan : d.engine.scanning = false := by simp [Engine.scanning, Nat.not_lt.mpr hend]
  simp [Device.observed, hop, hscan]

/-- Settles O34: an empty window leaves no counter to hash. -/
theorem emptyWindowCompletesAtOnce : Obligations.EmptyWindowCompletesAtOnce := by
  intro kh i s alg L hop h hempty
  exact ⟨_, exec_check hop h, rfl, observed_at_end kh (d := s.dev.checking i.op i.fields alg L) hop hempty.le,
    engineStep_checking_empty kh hop i.fields alg L s.dev hempty⟩

/-- Where the end of a TCHK wraps to a counter below its start counter, the window is empty (R144, R145; log 8). -/
theorem totpWindow_count_of_wrapped {ts p below above : DWord} (hwrap : 2 ^ 64 ≤ ts.toNat + above.toNat)
    (hbelow : (ts.toNat + above.toNat - 2 ^ 64) / p.toNat < (ts.toNat - below.toNat) / p.toNat) :
    (totpWindow ts p below above).count = 0 := by
  have hmod : (ts.toNat + above.toNat) % 2 ^ 64 = ts.toNat + above.toNat - 2 ^ 64 := by omega
  rw [totpWindow_eq, hmod]
  exact if_neg (Nat.not_le.mpr hbelow)

/-- Settles O27: the window is empty, and a check of an empty window is completed by its first engine step. -/
theorem totpWrappedEndEmptiesTheWindow : Obligations.TotpWrappedEndEmptiesTheWindow :=
  ⟨fun _ _ _ _ => totpWindow_count_of_wrapped, fun kh f s alg L h hwrap hbelow =>
    ⟨_, exec_check (i := .tchk f) rfl h,
      engineStep_checking_empty kh rfl f alg L s.dev (totpWindow_count_of_wrapped hwrap hbelow)⟩⟩

/-- A check is rejected for its code length where no earlier error applies (R164) and CAND_LEN is in 9..15 (R148). -/
theorem issue_candLen_invalid {d : Device} {op : Op} {f : CmdFields} {alg : HashAlg} (hop : op.isGenerate = false)
    (halg : hashOf f.alg = some alg) (hkey : d.keyLen.toNat ≤ 128) (hper : op.isTotp = true → d.period ≠ 0)
    (hlen : 9 ≤ d.candLen.toNat) :
    d.issue op f (setupOf op) = { d with status := d.status.rejected .invalidLength } := by
  rcases accepts_or_error d op f with ⟨alg', L, h⟩ | ⟨e, he, -⟩
  · have hlt := h.lengthIs
    rw [codeLength_check hop] at hlt
    omega
  · have hcode := (issue_errcode d op f).1
    rw [issue_of_error he, if_neg (by simp [halg]), if_neg (by omega), if_neg (fun h => hper h.1 h.2),
      codeLength_check hop, if_pos (by omega)] at hcode
    obtain rfl : e = .invalidLength := hcode
    exact issue_of_error he _

/-- Settles O35: the empty code matches the empty candidate at every counter. -/
theorem candidateLengthCornerCases : Obligations.CandidateLengthCornerCases := by
  intro kh i s alg hop halg hkey hper
  refine ⟨fun hlen => ?_, fun hlen hcount => ?_⟩
  · rw [exec_eq, issue_candLen_invalid hop halg hkey hper hlen]
  · have h : s.dev.Accepts i.op i.fields alg 0 := ⟨halg, hkey, hper, by rw [codeLength_check hop, hlen]; rfl⟩
    have hany : s.dev.hitBelow kh i.op alg 0 (s.dev.window i.op).count = true :=
      hitBelow_iff.mpr ⟨0, Nat.pos_of_ne_zero hcount, rfl⟩
    obtain ⟨n, hn⟩ := exists_engineRun_checking_completed kh hop i.fields alg 0 s.dev
    exact ⟨_, n, exec_check hop h, hany ▸ hn⟩

end Sys2Proof.Machine

/-! ## The trace of a constant-time scan (O33) -/

namespace Sys2Proof.Machine

/-- A trace is what each device of the run shows. -/
theorem engineTrace_eq_map (kh : KeyedHash) (n : Nat) (d : Device) :
    engineTrace kh n d = (List.range n).map fun k => (engineRun kh k d).observed kh := by
  induction n generalizing d with
  | zero => rfl
  | succ n ih =>
    rw [engineTrace, ih, List.range_succ_eq_map, List.map_cons, List.map_map]
    rfl

section
variable (kh : KeyedHash) {d : Device} (hb : d.status.busy = true) (hop : d.engine.op.isGenerate = false)
  (hvt : d.engine.vt = false)
include hb hop hvt

/-- A constant-time scan at a counter of its window hashes that counter and compares all 8 lanes (R131, R136). -/
theorem observed_scanAt_ct {k : Nat} (hk : k < d.engine.scanN) (a : Bool) :
    (d.scanAt k a).observed kh = some (windowCounter d.engine.scanBase k, 8) := by
  have hscan : (d.scanAt k a).engine.scanning = true := (scanning_iff _).mpr ⟨hk, by simp [Device.scanAt, hvt]⟩
  have hlanes : ((d.scanAt k a).compare ((d.scanAt k a).windowCode kh k)).lanes = 8 := by
    simp [Device.compare, Device.scanAt, hvt]
  simp only [Device.observed, Device.scanAt_status, Device.scanAt_op, Device.scanAt_scanI, hb, hop, hscan, hlanes]
  rfl

/-- A constant-time scan moves on by one counter a step, whatever ACC holds. -/
theorem engineRun_ct (hi : d.engine.scanI = 0) {k : Nat} (hk : k ≤ d.engine.scanN) :
    ∃ a, engineRun kh k d = d.scanAt k a := by
  have h := engineRun_at kh hb hop d.engine.scanI k d.engine.acc (by omega) (by simp [hvt])
  rw [Device.scanAt_self, hi, Nat.zero_add] at h
  exact ⟨_, h⟩

end

/-- Settles O33: step `k` is that of the scan at index `k`, up to the one at the end of the window. -/
theorem constantTimeScanHashesTheWholeWindow : Obligations.ConstantTimeScanHashesTheWholeWindow := by
  intro kh d hb hop hvt hi
  obtain ⟨a, hend⟩ := engineRun_ct kh hb hop hvt hi le_rfl
  refine ⟨?_, ?_, ?_⟩
  · rw [engineTrace_eq_map, List.range_succ, List.map_append, List.map_singleton, hend,
      observed_at_end kh (d := d.scanAt d.engine.scanN a) hop le_rfl]
    congr 1
    refine List.map_congr_left fun k hk => ?_
    have hlt : k < d.engine.scanN := List.mem_range.mp hk
    obtain ⟨b, hrun⟩ := engineRun_ct kh hb hop hvt hi hlt.le
    rw [hrun, observed_scanAt_ct kh hb hop hvt hlt]
  · rw [hend, Device.scanAt_status, hb]
  · rw [engineRun_succ, hend, engineStep_at_complete kh hb hop (.inl le_rfl)]

end Sys2Proof.Machine

/-! ## What a check leaves, and what it shows of the key (O36, O37) -/

namespace Sys2Proof.Machine

/-- An engine step of a check writes STATUS, SCAN_I and ACC at most (R149). -/
theorem engineStep_check_ranOn (kh : KeyedHash) {d : Device} (hop : d.engine.op.isGenerate = false) :
    ∃ st i a, engineStep kh d = d.ranOn d.ie st i a := by
  cases hb : d.status.busy with
  | false => exact ⟨_, _, _, engineStep_idle kh hb⟩
  | true =>
    rw [engineStep_check kh hb hop]
    cases hs : d.engine.scanning with
    | true => exact ⟨_, _, _, scanStep_scanning kh hs⟩
    | false => exact ⟨_, _, _, scanStep_complete kh hs⟩

/-- So does any number of them. -/
theorem engineRun_check_ranOn (kh : KeyedHash) {d : Device} (hop : d.engine.op.isGenerate = false) (n : Nat) :
    ∃ st i a, engineRun kh n d = d.ranOn d.ie st i a := by
  induction n with
  | zero => exact ⟨_, _, _, rfl⟩
  | succ n ih =>
    obtain ⟨st, i, a, hrun⟩ := ih
    rw [engineRun_succ, hrun]
    exact engineStep_check_ranOn kh (d := d.ranOn d.ie st i a) hop

/-- Settles O36: the issue zeroes the results and starts the scan, and the run writes STATUS, SCAN_I and ACC alone. -/
theorem checksWriteNoOperandRegister : Obligations.ChecksWriteNoOperandRegister := by
  intro kh i s alg L hop h
  refine ⟨_, exec_check hop h, fun n => ?_⟩
  obtain ⟨st, k, a, hrun⟩ := engineRun_check_ranOn kh (d := s.dev.checking i.op i.fields alg L) hop n
  exact ⟨st, _, hrun⟩

/-- No register but STATUS shows what a running check writes. -/
theorem readReg_ranOn (d : Device) {r : Reg} (hr : r ≠ .status) (st : Status) (i : Nat) (a : Bool) :
    (d.ranOn d.ie st i a).readReg r = d.readReg r := by
  cases r with
  | status => exact absurd rfl hr
  | lo o => cases o <;> rfl
  | hi o => cases o <;> rfl
  | _ => rfl

/-- At every offset but STATUS's a check reads throughout as it did at its issue. -/
theorem busRead_engineRun_check (kh : KeyedHash) {d : Device} (hop : d.engine.op.isGenerate = false) (n : Nat) {off : Nat}
    (hoff : off ≠ 0x008) (bytes : Nat) : busRead (engineRun kh n d) off bytes = busRead d off bytes := by
  obtain ⟨st, i, a, hrun⟩ := engineRun_check_ranOn kh hop n
  rw [hrun]
  exact busRead_congr (fun r hr => readReg_ranOn d (fun h => hoff (by rw [← hr, h]; rfl)) st i a) bytes

/-- STATUS of a constant-time check after any number of engine steps: as issued through SCAN_N of them, then completed with
a MATCH that is the same ever after (R135, R136). -/
theorem engineRun_checking_ct_status (kh : KeyedHash) {op : Op} (hop : op.isGenerate = false) {f : CmdFields}
    (hvt : f.vt = false) (alg : HashAlg) (L : Fin 9) (d : Device) (n : Nat) :
    (engineRun kh n (d.checking op f alg L)).status =
      if n ≤ (d.window op).count then d.status.issued
      else d.status.completed (d.hitBelow kh op alg L (d.window op).count) := by
  split
  · exact engineRun_checking_status kh hop f alg L d ‹_› (by simp [hvt])
  · obtain ⟨m, rfl⟩ : ∃ m, n = (d.window op).count + 1 + m := ⟨n - (d.window op).count - 1, by omega⟩
    have hdone := engineRun_checking_ct kh hop f alg L d hvt
    rw [engineRun_add, engineRun_idle kh (by rw [hdone]; rfl), hdone]

/-- Settles O37: no register but STATUS changes after the issue, which the key does not enter; and STATUS depends on the
number of steps and, once completed, on MATCH alone. -/
theorem checksExposeOnlyMatch : Obligations.ChecksExposeOnlyMatch := by
  intro kh i s key alg L hop hvt h
  have h' : { s.dev with key := key }.Accepts i.op i.fields alg L := ⟨h.algorithm, h.keyFits, h.periodSet, h.lengthIs⟩
  refine ⟨_, _, exec_check hop h, exec_check (s := s.withDev { s.dev with key := key }) hop h', fun n => ⟨?_, ?_⟩⟩
  · intro off bytes hoff
    rw [State.withDev_dev, State.withDev_dev, busRead_engineRun_check kh hop n hoff, busRead_engineRun_check kh hop n hoff]
    exact ((keyIsNeverReadBack (s.dev.checking i.op i.fields alg L) key).1 off bytes).symm
  · have hwin : { s.dev with key := key }.window i.op = s.dev.window i.op := by cases i <;> rfl
    rw [State.withDev_dev, State.withDev_dev, State.withDev_dev, engineRun_checking_ct_status kh hop hvt,
      engineRun_checking_ct_status kh hop hvt, hwin]
    split
    · exact ⟨_, rfl, fun _ => rfl⟩
    · exact ⟨_, rfl, fun hn => absurd hn ‹_›⟩

end Sys2Proof.Machine

/-! ## The errors of an issue (O9, O10, O11) -/

namespace Sys2Proof

/-- TGEN and TCHK have the opcodes 4 and 5 (rule R82). -/
theorem Op.isTotp_iff_opc (o : Op) : o.isTotp = true ↔ o.opc.toNat ∈ [4, 5] := by
  cases o <;> decide

end Sys2Proof

namespace Sys2Proof.Machine

/-- ALG = 3 selects no algorithm (rule R83). -/
theorem hashOf_eq_none_iff (a : AlgSel) : hashOf a = none ↔ a = .reserved := by
  cases a <;> decide

/-- The error that the issue of a decoded word reports, on the bits of the word (R91, R161, R164). -/
theorem issue_errcode_of_word {w : Word} {i : Instr} (h : decode w = .instr i) (d : Device) :
    (d.issue i.op i.fields (setupOf i.op)).status.errcode =
      (if w.extractLsb' 4 2 = 3 then .invalidAlgorithm
       else if 128 < d.keyLen.toNat then .invalidKeylen
       else if (w.extractLsb' 0 4).toNat ∈ [4, 5] ∧ d.period = 0 then .invalidPeriod
       else if 8 < (if (w.extractLsb' 0 4).toNat ∈ [1, 4] then w.extractLsb' 8 4 else d.candLen).toNat
         then .invalidLength
       else .none) := by
  obtain ⟨-, hopc, hfields⟩ := decode_instr h
  refine (issue_errcode d i.op i.fields).1.trans ?_
  simp only [Device.codeLength, hashOf_eq_none_iff, Op.isTotp_iff_opc, Op.isGenerate_iff_opc, ← hopc, hfields,
    fieldsOfWord, algSelOfBits_eq_reserved]

/-- Settles O9: a word that is no command is INVALID_COMMAND; of a command, validation reports the first error. -/
theorem issueReportsFirstError : Obligations.IssueReportsFirstError := by
  intro w s
  cases h : decode w with
  | rejected r =>
    have hbad := (decode_eq_rejected_iff w).mp ⟨r, h⟩
    exact ⟨_, issueWord_rejected h s, (if_pos hbad).symm, iff_of_true rfl nofun⟩
  | instr i =>
    have hcommand : ¬∃ r, decode w = .rejected r := by simp [h]
    refine ⟨_, issueWord_decoded h s, ?_, (issue_errcode (s.dev.storeCmd w) i.op i.fields).2⟩
    rw [if_neg (mt (decode_eq_rejected_iff w).mpr hcommand)]
    exact issue_errcode_of_word h (s.dev.storeCmd w)

/-- The issue of any word either is accepted, and STATUS says so, or writes CMD and STATUS alone (R91, R163). -/
theorem issueWord_issued_or_rejected (w : Word) (s : State) :
    ∃ d, issueWord w s = .next (s.withDev d)
      ∧ (d.status = s.dev.status.issued
        ∨ ∃ e, e ≠ .none ∧ d = { s.dev with cmd := w, status := s.dev.status.rejected e }) := by
  cases h : decode w with
  | rejected r => exact ⟨_, issueWord_rejected h s, .inr ⟨.invalidCommand, nofun, rfl⟩⟩
  | instr i =>
    refine ⟨_, issueWord_decoded h s, ?_⟩
    rcases accepts_or_error (s.dev.storeCmd w) i.op i.fields with ⟨alg, L, ha⟩ | ⟨e, he, hne⟩
    · exact .inl (issue_status_of_accepts ha)
    · exact .inr ⟨e, hne, issue_of_error he _⟩

/-- Settles O10: ERR tells the two outcomes apart. -/
theorem rejectedIssueChangesOnlyCmdAndStatus : Obligations.RejectedIssueChangesOnlyCmdAndStatus := by
  intro w s hb
  obtain ⟨d, hd, hissued | ⟨e, hne, rfl⟩⟩ := issueWord_issued_or_rejected w s
  · refine ⟨_, hd, rfl, rfl, rfl, ?_⟩
    rw [State.withDev_dev, hissued]
    exact ⟨nofun, fun _ => ⟨rfl, rfl⟩⟩
  · exact ⟨_, hd, rfl, rfl, rfl, fun _ => ⟨rfl, hb, hne⟩, nofun⟩

/-- The error of a check is a function of its operation, ALG, KEYLEN, PERIOD and CAND_LEN (R165). -/
theorem issue_errcode_check_congr {op : Op} (hop : op.isGenerate = false) {d e : Device} {f g : CmdFields}
    (halg : f.alg = g.alg) (hkey : d.keyLen = e.keyLen) (hper : d.period = e.period) (hcand : d.candLen = e.candLen) :
    (d.issue op f (setupOf op)).status.errcode = (e.issue op g (setupOf op)).status.errcode := by
  rw [(issue_errcode d op f).1, (issue_errcode e op g).1, codeLength_check hop, codeLength_check hop, halg, hkey, hper,
    hcand]

/-- Settles O11: ERRCODE is the same, and ERR is set exactly with it. -/
theorem checkErrorIgnoresModeAndWindow : Obligations.CheckErrorIgnoresModeAndWindow := by
  intro i j s u hop hcheck halg hkey hper hcand
  have hcode := issue_errcode_check_congr hcheck halg hkey hper hcand
  refine ⟨_, _, exec_eq i s, exec_eq j u, ?_⟩
  rw [State.withDev_dev, State.withDev_dev, ← hop]
  refine ⟨?_, hcode⟩
  rw [Bool.eq_iff_iff, (issue_errcode _ _ _).2, (issue_errcode _ _ _).2, hcode]

end Sys2Proof.Machine

/-! ## Every step answers, and every command completes (O55, O60) -/

namespace Sys2Proof.Machine

/-- Settles O55: a step is one of the moves, and none of them is a fault or a refusal. -/
theorem everyStepIsSafe : Obligations.EveryStepIsSafe := fun s =>
  let ⟨t, ht, _⟩ := stepWith_move Config.kh s
  ⟨t, ht⟩

/-- A completion of a running command leaves STATUS completed: ERR and ERRCODE were clear (R28, R30). -/
theorem Status.Consistent.complete_eq {st : Status} (h : st.Consistent) (hb : st.busy = true) (m : Bool) :
    { st with busy := false, done := true, matched := m } = st.completed m := by
  obtain ⟨-, herr, -⟩ := h.busyCleared hb
  have hcode : st.errcode = .none := h.codeWithErr.mp herr
  rw [Status.completed, herr, hcode]

/-- An engine step of a running command completes it, or evaluates one more counter of a check's window. -/
theorem engineStep_completes_or_scans (kh : KeyedHash) {d : Device} (h : d.Inv) (hb : d.status.busy = true) :
    (∃ m, (engineStep kh d).status = d.status.completed m)
      ∨ d.engine.scanI < d.engine.scanN ∧ engineStep kh d = d.scanned (d.matchesAt kh d.engine.scanI) := by
  have hdone := ((Device.inv_iff d).mp h).1.complete_eq hb
  cases ho : d.engine.op with
  | gen =>
    rw [engineStep_gen kh hb ho]
    exact .inl ⟨_, hdone d.status.matched⟩
  | tgen =>
    rw [engineStep_tgen kh hb ho]
    exact .inl ⟨_, hdone d.status.matched⟩
  | _ =>
    rw [engineStep_check kh hb (by rw [ho]; rfl)]
    cases hs : d.engine.scanning with
    | false =>
      rw [scanStep_complete kh hs]
      exact .inl ⟨_, hdone d.engine.acc⟩
    | true => exact .inr ⟨((scanning_iff _).mp hs).1, scanStep_scanning kh hs⟩

/-- A running command with at most `k` counters left to evaluate completes within `k + 1` engine steps. -/
theorem exists_engineRun_completed (kh : KeyedHash) {d : Device} (h : d.Inv) (hb : d.status.busy = true) {k : Nat}
    (hk : d.engine.scanN - d.engine.scanI ≤ k) :
    ∃ n, n ≤ k + 1 ∧ ∃ m, (engineRun kh n d).status = d.status.completed m := by
  induction k generalizing d with
  | zero =>
    have hdone := (engineStep_completes_or_scans kh h hb).resolve_right fun hscan => by omega
    exact ⟨1, le_rfl, hdone⟩
  | succ k ih =>
    rcases engineStep_completes_or_scans kh h hb with hdone | ⟨hlt, hscan⟩
    · exact ⟨1, by omega, hdone⟩
    · have hinv := h.engineStep kh
      rw [hscan] at hinv
      have hleft : d.engine.scanN - (d.engine.scanI + 1) ≤ k := by omega
      obtain ⟨n, hn, hdone⟩ := ih hinv hb hleft
      exact ⟨n + 1, by omega, by rwa [engineRun, hscan]⟩

/-- Settles O60: SCAN_N - SCAN_I counters are left. -/
theorem acceptedCommandCompletes : Obligations.AcceptedCommandCompletes :=
  fun kh _ h hb => exists_engineRun_completed kh h hb le_rfl

end Sys2Proof.Machine

/-! ## The reset state, the soft reset, and what holds after reset (O52, O53, O56) -/

namespace Sys2Proof.Machine

/-- Of the registers only ID and PERIOD_LO read other than 0 after reset (R190). -/
theorem readReg_reset (r : Reg) :
    Device.reset.readReg r = if r = .id then Config.idValue else if r = .lo .period then 30#32 else 0#32 := by
  cases r with
  | lo o => cases o <;> rfl
  | hi o => cases o <;> rfl
  | cand k => exact packWord_replicate_zero 8 k
  | code k => exact packWord_replicate_zero 8 k
  | digest k => exact packWord_replicate_zero 64 k
  | _ => rfl

theorem ne_offset_of_regAt_eq_none {off : Nat} (h : regAt off = none) (r : Reg) : off ≠ r.offset := by
  rintro rfl
  rw [regAt_offset] at h
  cases h

/-- Settles O52: a reserved offset reads 0, and a register's offset reads `readReg_reset` of it. -/
theorem resetStateReadsAsTheSpecSays : Obligations.ResetStateReadsAsTheSpecSays := by
  refine ⟨fun off halign hlt => ?_, rfl, rfl, rfl, rfl⟩
  cases hreg : regAt off with
  | none =>
    have hid : off ≠ 0x000 := ne_offset_of_regAt_eq_none hreg .id
    have hperiod : off ≠ 0x028 := ne_offset_of_regAt_eq_none hreg (.lo .period)
    rw [if_neg hid, if_neg hperiod]
    exact busRead_reserved _ ((busLegal_iff off 4).mpr ⟨rfl, halign, hlt⟩) hreg
  | some r =>
    obtain rfl := offset_of_regAt hreg
    have hid : r.offset = 0x000 ↔ r = .id := ⟨Reg.offset_injective (r' := .id), congrArg Reg.offset⟩
    have hperiod : r.offset = 0x028 ↔ r = .lo .period :=
      ⟨Reg.offset_injective (r' := .lo .period), congrArg Reg.offset⟩
    simp only [hid, hperiod]
    exact (busRead_reg _ r).trans (congrArg _ (readReg_reset r))

/-- A write to CTRL with bit 0 set is a soft reset, whatever its other bits (R192). -/
theorem writeCtrl_reset {v : Word} (hv : v.getLsbD 0 = true) (d : Device) : d.writeCtrl v = Device.reset :=
  if_pos hv

/-- Settles O53: CTRL is no operand, so BUSY does not stop its write; and after reset the engine is idle. -/
theorem softResetIsHardwareReset : Obligations.SoftResetIsHardwareReset := by
  intro kh s v hv
  refine ⟨?_, rfl, engineRun_idle kh rfl⟩
  have hwrite : s.dev.writeReg .ctrl v = Device.reset := writeCtrl_reset hv s.dev
  rw [← hwrite]
  exact busWrite_stores (r := .ctrl) rfl nofun v

/-- Settles O56: `Device.inv_reset`; the other two invariants speak of BUSY = 1 only, and after reset BUSY = 0. -/
theorem invariantsHoldAtReset : Obligations.InvariantsHoldAtReset :=
  ⟨Device.inv_reset, nofun, fun _ => nofun⟩

end Sys2Proof.Machine

/-! ## The constant-time property (O32)

`CtAlike` relates two constant-time checks by everything that their timing depends on. It is a bisimulation: engine steps keep
it, under any two keyed hashes, and related devices show the same observation. -/

namespace Sys2Proof.Machine

/-- The operation latched is a check in constant-time mode (R131). -/
structure Engine.IsCtCheck (e : Engine) : Prop where
  check : e.op.isGenerate = false
  mode : e.vt = false

/-- Two constant-time checks, both running or both done, at the same point of the same window. -/
structure CtAlike (d e : Device) : Prop where
  left : d.engine.IsCtCheck
  right : e.engine.IsCtCheck
  busy : d.status.busy = e.status.busy
  scanBase : d.engine.scanBase = e.engine.scanBase
  scanN : d.engine.scanN = e.engine.scanN
  scanI : d.engine.scanI = e.engine.scanI

/-- A constant-time check scans to the end of its window, whatever ACC holds (R136). -/
theorem Engine.IsCtCheck.scanning_eq {e : Engine} (h : e.IsCtCheck) : e.scanning = decide (e.scanI < e.scanN) := by
  simp [Engine.scanning, h.mode]

theorem Engine.IsCtCheck.scanned {d : Device} (h : d.engine.IsCtCheck) (m : Bool) : (d.scanned m).engine.IsCtCheck :=
  ⟨h.check, h.mode⟩

/-- What a constant-time check shows: the counter at SCAN_I and 8 lanes, or nothing once its window is done. -/
theorem observed_ct (kh : KeyedHash) {d : Device} (h : d.engine.IsCtCheck) :
    d.observed kh = if d.status.busy = true ∧ d.engine.scanI < d.engine.scanN
      then some (windowCounter d.engine.scanBase d.engine.scanI, 8) else none := by
  cases hb : d.status.busy with
  | false => simp [Device.observed, hb]
  | true =>
    by_cases hlt : d.engine.scanI < d.engine.scanN
    · rw [if_pos ⟨rfl, hlt⟩]
      exact observed_scanAt_ct kh hb h.check h.mode hlt d.engine.acc
    · rw [if_neg (hlt ·.2), observed_at_end kh h.check (Nat.le_of_not_lt hlt)]

theorem CtAlike.observed {d e : Device} (h : CtAlike d e) (kh kh' : KeyedHash) : d.observed kh = e.observed kh' := by
  rw [observed_ct kh h.left, observed_ct kh' h.right, h.busy, h.scanBase, h.scanN, h.scanI]

/-- An engine step moves both on by one counter, or completes both, or finds both idle. -/
theorem CtAlike.engineStep {d e : Device} (h : CtAlike d e) (kh kh' : KeyedHash) :
    CtAlike (engineStep kh d) (engineStep kh' e) := by
  cases hb : d.status.busy with
  | false => rwa [engineStep_idle kh hb, engineStep_idle kh' (h.busy ▸ hb)]
  | true =>
    have hscan : e.engine.scanning = d.engine.scanning := by
      rw [h.left.scanning_eq, h.right.scanning_eq, h.scanI, h.scanN]
    rw [engineStep_check kh hb h.left.check, engineStep_check kh' (h.busy ▸ hb) h.right.check]
    cases hs : d.engine.scanning with
    | true =>
      rw [scanStep_scanning kh hs, scanStep_scanning kh' (hscan.trans hs)]
      exact ⟨h.left.scanned _, h.right.scanned _, h.busy, h.scanBase, h.scanN, congrArg (· + 1) h.scanI⟩
    | false =>
      rw [scanStep_complete kh hs, scanStep_complete kh' (hscan.trans hs)]
      exact { h with busy := rfl }

theorem CtAlike.engineRun {d e : Device} (h : CtAlike d e) (kh kh' : KeyedHash) (n : Nat) :
    CtAlike (engineRun kh n d) (engineRun kh' n e) := by
  induction n with
  | zero => exact h
  | succ n ih =>
    rw [engineRun_succ, engineRun_succ]
    exact ih.engineStep kh kh'

theorem CtAlike.engineTrace {d e : Device} (h : CtAlike d e) (kh kh' : KeyedHash) (n : Nat) :
    engineTrace kh n d = engineTrace kh' n e := by
  rw [engineTrace_eq_map, engineTrace_eq_map]
  exact List.map_congr_left fun k _ => (h.engineRun kh kh' k).observed kh kh'

/-- Every evaluation that a constant-time check shows examines 8 lanes (R131, R205). -/
theorem lanes_of_observed_ct {kh : KeyedHash} {d : Device} (h : d.engine.IsCtCheck) {c : DWord} {l : Nat}
    (ho : d.observed kh = some (c, l)) : l = 8 := by
  rw [observed_ct kh h] at ho
  split at ho
  · cases ho; rfl
  · cases ho

/-- Settles O32: the two runs stay related by `CtAlike`, and each device of a run shows 8 lanes or nothing. -/
theorem constantTimeRunsLookAlike : Obligations.ConstantTimeRunsLookAlike := by
  intro kh kh' d e hbd hbe hopd hope hvtd hvte hbase hsize hindex n
  have h : CtAlike d e := ⟨⟨hopd, hvtd⟩, ⟨hope, hvte⟩, hbd.trans hbe.symm, hbase, hsize, hindex⟩
  refine ⟨h.engineTrace kh kh' n, (h.engineRun kh kh' n).busy, fun c l hmem => ?_⟩
  rw [engineTrace_eq_map] at hmem
  obtain ⟨k, -, hobs⟩ := List.mem_map.mp hmem
  exact lanes_of_observed_ct (h.engineRun kh kh' k).left hobs

end Sys2Proof.Machine
